-- ==== Sys2Proof/Word.lean ====
section
/-! DEFINITION. The word types of the block (00_scope.md R7, R12): unsigned bit vectors, whose
`+` and `*` wrap, whose `<<<` and `>>>` are logical (R13). The rotate (R14) stands in
Machine/Operands.lean. -/

namespace Sys2Proof

/-- A state word, a data word or an output word: 64 bits, unsigned (R7, R12). -/
abbrev Word := BitVec 64

/-- A byte of a host bus (20_memory.md R43). -/
abbrev Byte := BitVec 8

/-- A command word: 32 bits (30_encoding.md R56). -/
abbrev CommandWord := BitVec 32

end Sys2Proof
end

