-- ==== Sys2Proof/Syntax.lean ====
section
/-! DEFINITION. The commands (30_encoding.md R56 to R60, opcode_table.json): families, widths,
instances, and one constructor of `Instr` for each row of the opcode table. -/

namespace Sys2Proof

/-- The five generator families (00_scope.md R3, 30_encoding.md R58). -/
inductive Family
  | ss
  | xs64
  | xs128p
  | xrs128p
  | xsh256pp
  deriving DecidableEq, Repr

/-- m(f): the state words of one lane (R3, R58). -/
def Family.wordCount : Family → Nat
  | .ss => 1
  | .xs64 => 1
  | .xs128p => 2
  | .xrs128p => 2
  | .xsh256pp => 4

/-- The lane widths (R8). -/
inductive Width
  | w1
  | w2
  | w4
  | w8
  deriving DecidableEq, Repr

/-- WC, the width code (R59). -/
def Width.code : Width → Nat
  | .w1 => 0
  | .w2 => 1
  | .w4 => 2
  | .w8 => 3

/-- W, the number of lanes (R8); `W = 2^WC` (R59) is `Width.lanes_eq_two_pow_code`. -/
def Width.lanes : Width → Nat
  | .w1 => 1
  | .w2 => 2
  | .w4 => 4
  | .w8 => 8

/-- An instance index: an unsigned 4-bit number (R60). -/
abbrev Inst := Fin 16

/-- The four operations (R57). -/
inductive Op
  | load
  | next
  | read
  | eq
  deriving DecidableEq, Repr

/-- A request on the command port (R55). -/
structure Request where
  cmd  : CommandWord
  data : List Word
  deriving DecidableEq, Repr

/-- The twenty commands, one constructor for each row of opcode_table.json. `w` is the width and `i`
the instance of the addressed unit, `i2` the second instance of an EQ (R60); `d` is the list of data
words the request carries, which only LOAD may have (R63, `Instr.WellFormed`). -/
inductive Instr
  | loadSs (w : Width) (i : Inst) (d : List Word)
  | nextSs (w : Width) (i : Inst) (d : List Word)
  | readSs (w : Width) (i : Inst) (d : List Word)
  | eqSs (w : Width) (i i2 : Inst) (d : List Word)
  | loadXs64 (w : Width) (i : Inst) (d : List Word)
  | nextXs64 (w : Width) (i : Inst) (d : List Word)
  | readXs64 (w : Width) (i : Inst) (d : List Word)
  | eqXs64 (w : Width) (i i2 : Inst) (d : List Word)
  | loadXs128p (w : Width) (i : Inst) (d : List Word)
  | nextXs128p (w : Width) (i : Inst) (d : List Word)
  | readXs128p (w : Width) (i : Inst) (d : List Word)
  | eqXs128p (w : Width) (i i2 : Inst) (d : List Word)
  | loadXrs128p (w : Width) (i : Inst) (d : List Word)
  | nextXrs128p (w : Width) (i : Inst) (d : List Word)
  | readXrs128p (w : Width) (i : Inst) (d : List Word)
  | eqXrs128p (w : Width) (i i2 : Inst) (d : List Word)
  | loadXsh256pp (w : Width) (i : Inst) (d : List Word)
  | nextXsh256pp (w : Width) (i : Inst) (d : List Word)
  | readXsh256pp (w : Width) (i : Inst) (d : List Word)
  | eqXsh256pp (w : Width) (i i2 : Inst) (d : List Word)
  deriving DecidableEq, Repr

namespace Instr

/-- The operation (R57). -/
def op : Instr → Op
  | .loadSs _ _ _ => .load
  | .nextSs _ _ _ => .next
  | .readSs _ _ _ => .read
  | .eqSs _ _ _ _ => .eq
  | .loadXs64 _ _ _ => .load
  | .nextXs64 _ _ _ => .next
  | .readXs64 _ _ _ => .read
  | .eqXs64 _ _ _ _ => .eq
  | .loadXs128p _ _ _ => .load
  | .nextXs128p _ _ _ => .next
  | .readXs128p _ _ _ => .read
  | .eqXs128p _ _ _ _ => .eq
  | .loadXrs128p _ _ _ => .load
  | .nextXrs128p _ _ _ => .next
  | .readXrs128p _ _ _ => .read
  | .eqXrs128p _ _ _ _ => .eq
  | .loadXsh256pp _ _ _ => .load
  | .nextXsh256pp _ _ _ => .next
  | .readXsh256pp _ _ _ => .read
  | .eqXsh256pp _ _ _ _ => .eq

/-- The family of the addressed units (R58). -/
def family : Instr → Family
  | .loadSs _ _ _ => .ss
  | .nextSs _ _ _ => .ss
  | .readSs _ _ _ => .ss
  | .eqSs _ _ _ _ => .ss
  | .loadXs64 _ _ _ => .xs64
  | .nextXs64 _ _ _ => .xs64
  | .readXs64 _ _ _ => .xs64
  | .eqXs64 _ _ _ _ => .xs64
  | .loadXs128p _ _ _ => .xs128p
  | .nextXs128p _ _ _ => .xs128p
  | .readXs128p _ _ _ => .xs128p
  | .eqXs128p _ _ _ _ => .xs128p
  | .loadXrs128p _ _ _ => .xrs128p
  | .nextXrs128p _ _ _ => .xrs128p
  | .readXrs128p _ _ _ => .xrs128p
  | .eqXrs128p _ _ _ _ => .xrs128p
  | .loadXsh256pp _ _ _ => .xsh256pp
  | .nextXsh256pp _ _ _ => .xsh256pp
  | .readXsh256pp _ _ _ => .xsh256pp
  | .eqXsh256pp _ _ _ _ => .xsh256pp

/-- The width of the addressed units (R59). -/
def width : Instr → Width
  | .loadSs w _ _ => w
  | .nextSs w _ _ => w
  | .readSs w _ _ => w
  | .eqSs w _ _ _ => w
  | .loadXs64 w _ _ => w
  | .nextXs64 w _ _ => w
  | .readXs64 w _ _ => w
  | .eqXs64 w _ _ _ => w
  | .loadXs128p w _ _ => w
  | .nextXs128p w _ _ => w
  | .readXs128p w _ _ => w
  | .eqXs128p w _ _ _ => w
  | .loadXrs128p w _ _ => w
  | .nextXrs128p w _ _ => w
  | .readXrs128p w _ _ => w
  | .eqXrs128p w _ _ _ => w
  | .loadXsh256pp w _ _ => w
  | .nextXsh256pp w _ _ => w
  | .readXsh256pp w _ _ => w
  | .eqXsh256pp w _ _ _ => w

/-- INST, the instance of the addressed unit (R60). -/
def inst : Instr → Inst
  | .loadSs _ i _ => i
  | .nextSs _ i _ => i
  | .readSs _ i _ => i
  | .eqSs _ i _ _ => i
  | .loadXs64 _ i _ => i
  | .nextXs64 _ i _ => i
  | .readXs64 _ i _ => i
  | .eqXs64 _ i _ _ => i
  | .loadXs128p _ i _ => i
  | .nextXs128p _ i _ => i
  | .readXs128p _ i _ => i
  | .eqXs128p _ i _ _ => i
  | .loadXrs128p _ i _ => i
  | .nextXrs128p _ i _ => i
  | .readXrs128p _ i _ => i
  | .eqXrs128p _ i _ _ => i
  | .loadXsh256pp _ i _ => i
  | .nextXsh256pp _ i _ => i
  | .readXsh256pp _ i _ => i
  | .eqXsh256pp _ i _ _ => i

/-- INST2, the second instance of an EQ; 0 otherwise (R60). -/
def inst2 : Instr → Inst
  | .loadSs _ _ _ => 0
  | .nextSs _ _ _ => 0
  | .readSs _ _ _ => 0
  | .eqSs _ _ i2 _ => i2
  | .loadXs64 _ _ _ => 0
  | .nextXs64 _ _ _ => 0
  | .readXs64 _ _ _ => 0
  | .eqXs64 _ _ i2 _ => i2
  | .loadXs128p _ _ _ => 0
  | .nextXs128p _ _ _ => 0
  | .readXs128p _ _ _ => 0
  | .eqXs128p _ _ i2 _ => i2
  | .loadXrs128p _ _ _ => 0
  | .nextXrs128p _ _ _ => 0
  | .readXrs128p _ _ _ => 0
  | .eqXrs128p _ _ i2 _ => i2
  | .loadXsh256pp _ _ _ => 0
  | .nextXsh256pp _ _ _ => 0
  | .readXsh256pp _ _ _ => 0
  | .eqXsh256pp _ _ i2 _ => i2

/-- The data words the request carries (R55). -/
def data : Instr → List Word
  | .loadSs _ _ d => d
  | .nextSs _ _ d => d
  | .readSs _ _ d => d
  | .eqSs _ _ _ d => d
  | .loadXs64 _ _ d => d
  | .nextXs64 _ _ d => d
  | .readXs64 _ _ d => d
  | .eqXs64 _ _ _ d => d
  | .loadXs128p _ _ d => d
  | .nextXs128p _ _ d => d
  | .readXs128p _ _ d => d
  | .eqXs128p _ _ _ d => d
  | .loadXrs128p _ _ d => d
  | .nextXrs128p _ _ d => d
  | .readXrs128p _ _ d => d
  | .eqXrs128p _ _ _ d => d
  | .loadXsh256pp _ _ d => d
  | .nextXsh256pp _ _ d => d
  | .readXsh256pp _ _ d => d
  | .eqXsh256pp _ _ _ d => d

/-- The instances a command names: INST, and INST2 too for EQ (R60). -/
def insts (c : Instr) : List Inst :=
  match c.op with
  | .load | .next | .read => [c.inst]
  | .eq => [c.inst, c.inst2]

/-- The number of data words the request must carry (R63): m(f)*W for LOAD, none otherwise. -/
def dataCount (c : Instr) : Nat :=
  match c.op with
  | .load => c.family.wordCount * c.width.lanes
  | .next | .read | .eq => 0

end Instr

end Sys2Proof
end

