-- ==== Sys2Proof/WellFormed.lean ====
section
/-! DEFINITION. Which commands are well formed. The types of Syntax.lean already keep the width a
width and an instance a 4-bit number; what is left is the number of data words (30_encoding.md R63),
for each operation. -/

namespace Sys2Proof

/-- A command is well formed when its request carries exactly the data words R63 gives it: m(f)*W for
LOAD, none for NEXT, READ and EQ. (An ill-formed one can arrive; it is answered ERR_LENGTH.) -/
def Instr.wellFormed (c : Instr) : Bool :=
  match c.op with
  | .load => c.data.length == c.family.wordCount * c.width.lanes
  | .next => c.data.isEmpty
  | .read => c.data.isEmpty
  | .eq => c.data.isEmpty

/-- `wellFormed`, as the proposition statements use. -/
abbrev Instr.WellFormed (c : Instr) : Prop := c.wellFormed = true

end Sys2Proof
end

