-- ==== Sys2Proof/Decode.lean ====
section
/-! DEFINITION. From a request to a command or a named rejection (30_encoding.md R56 to R61, R64 part 1,
R66), from the bytes of a host bus to the same (20_memory.md R43, R44), and after it the encoder,
written row by row from R68 and opcode_table.json. -/

namespace Sys2Proof

/-- Why something on the port is no command. The first four are the illegal encodings of R66, all
answered ERR_ILLEGAL; the last two are what a byte bus can carry that is no request at all (R44). -/
inductive DecodeError
  /-- `c[31:16] != 0` (R61) -/
  | reservedBits
  /-- OP in 4 to 7 (R57) -/
  | reservedOp
  /-- FAM in 5 to 7 (R58) -/
  | reservedFamily
  /-- INST2 != 0 with OP other than EQ (R60) -/
  | secondInstanceOutsideEq
  /-- fewer than the four bytes of a command word (R43, R44) -/
  | shortCommand
  /-- after the command word, a number of bytes that is not whole 64-bit words (R42, R44) -/
  | partialDataWord
  deriving DecidableEq, Repr

/-- `c[hi:lo]`, read as an unsigned number (00_scope.md R11). -/
def field (c : CommandWord) (hi lo : Nat) : Nat := (c.extractLsb hi lo).toNat

/-- The operation an OP value names; OP 4 to 7 are reserved (R57). -/
def opOf : Nat → Option Op
  | 0 => some .load
  | 1 => some .next
  | 2 => some .read
  | 3 => some .eq
  | _ => none

/-- The family a FAM value names; FAM 5 to 7 are reserved (R58). -/
def familyOf : Nat → Option Family
  | 0 => some .ss
  | 1 => some .xs64
  | 2 => some .xs128p
  | 3 => some .xrs128p
  | 4 => some .xsh256pp
  | _ => none

/-- The width a WC value names; a WC is a 2-bit number, so every value names one (R59). -/
def widthOf : Nat → Width
  | 0 => .w1
  | 1 => .w2
  | 2 => .w4
  | _ => .w8

/-- The LOAD command of a family. -/
def Instr.loadOf (f : Family) (w : Width) (i : Inst) (d : List Word) : Instr :=
  match f with
  | .ss => .loadSs w i d
  | .xs64 => .loadXs64 w i d
  | .xs128p => .loadXs128p w i d
  | .xrs128p => .loadXrs128p w i d
  | .xsh256pp => .loadXsh256pp w i d

/-- The NEXT command of a family. -/
def Instr.nextOf (f : Family) (w : Width) (i : Inst) (d : List Word) : Instr :=
  match f with
  | .ss => .nextSs w i d
  | .xs64 => .nextXs64 w i d
  | .xs128p => .nextXs128p w i d
  | .xrs128p => .nextXrs128p w i d
  | .xsh256pp => .nextXsh256pp w i d

/-- The READ command of a family. -/
def Instr.readOf (f : Family) (w : Width) (i : Inst) (d : List Word) : Instr :=
  match f with
  | .ss => .readSs w i d
  | .xs64 => .readXs64 w i d
  | .xs128p => .readXs128p w i d
  | .xrs128p => .readXrs128p w i d
  | .xsh256pp => .readXsh256pp w i d

/-- The EQ command of a family. -/
def Instr.eqOf (f : Family) (w : Width) (i i2 : Inst) (d : List Word) : Instr :=
  match f with
  | .ss => .eqSs w i i2 d
  | .xs64 => .eqXs64 w i i2 d
  | .xs128p => .eqXs128p w i i2 d
  | .xrs128p => .eqXrs128p w i i2 d
  | .xsh256pp => .eqXsh256pp w i i2 d
/-- The command with the given fields. -/
def Instr.ofFields (op : Op) (f : Family) (w : Width) (i i2 : Inst) (d : List Word) : Instr :=
  match op with
  | .load => .loadOf f w i d
  | .next => .nextOf f w i d
  | .read => .readOf f w i d
  | .eq => .eqOf f w i i2 d

/-- The command of a request, or why its command word is illegal (R64 part 1, R66). The number of data
words is not looked at here: R64 checks it after the unit's existence. -/
def decode (r : Request) : Except DecodeError Instr :=
  if field r.cmd 31 16 ≠ 0 then .error .reservedBits
  else
    match opOf (field r.cmd 2 0) with
    | none => .error .reservedOp
    | some op =>
      match familyOf (field r.cmd 5 3) with
      | none => .error .reservedFamily
      | some f =>
        if op ≠ .eq ∧ field r.cmd 15 12 ≠ 0 then .error .secondInstanceOutsideEq
        else
          .ok (.ofFields op f (widthOf (field r.cmd 7 6)) (Fin.ofNat 16 (field r.cmd 11 8))
            (Fin.ofNat 16 (field r.cmd 15 12)) r.data)

/-! ### Bytes of a host bus (R43) -/

/-- The n bytes of a word, byte b being bits `[8b+7 : 8b]`: little-endian (R43). -/
def bytesOf {k : Nat} (n : Nat) (x : BitVec k) : List Byte :=
  (List.range n).map fun b => x.extractLsb' (8 * b) 8

/-- The number that little-endian bytes carry (R43). -/
def numberOfBytes : List Byte → Nat
  | [] => 0
  | b :: rest => b.toNat + 256 * numberOfBytes rest

/-- Bytes taken as whole 64-bit data words, eight at a time (R42, R43); none if some are left over. -/
def dataOfBytes : List Byte → Option (List Word)
  | [] => some []
  | b0 :: b1 :: b2 :: b3 :: b4 :: b5 :: b6 :: b7 :: rest =>
    (dataOfBytes rest).map
      (BitVec.ofNat 64 (numberOfBytes [b0, b1, b2, b3, b4, b5, b6, b7]) :: ·)
  | _ => none

/-- The request that bytes of a host bus carry: the command word first, then the data words. -/
def requestOfBytes : List Byte → Except DecodeError Request
  | b0 :: b1 :: b2 :: b3 :: rest =>
    match dataOfBytes rest with
    | some d => .ok ⟨BitVec.ofNat 32 (numberOfBytes [b0, b1, b2, b3]), d⟩
    | none => .error .partialDataWord
  | _ => .error .shortCommand

/-- The command that the bytes of one request on a host bus carry: total, and every rejection has a name
(log 13). -/
def decodeBytes (bytes : List Byte) : Except DecodeError Instr :=
  match requestOfBytes bytes with
  | .ok r => decode r
  | .error e => .error e

/-- A request as the bytes of a host bus (R43). -/
def bytesOfRequest (r : Request) : List Byte :=
  bytesOf 4 r.cmd ++ r.data.flatMap (bytesOf 8)

/-! ### The encoder -/

/-- A row's fixed bits with its free fields put in: WC at 6, INST at 8, INST2 at 12 (R68). -/
def rowWord (fixed : CommandWord) (w : Width) (i i2 : Inst) : CommandWord :=
  fixed ||| (BitVec.ofNat 32 w.code <<< 6) ||| (BitVec.ofNat 32 i.val <<< 8) |||
    (BitVec.ofNat 32 i2.val <<< 12)

/-- The request of a command: the fixed bits of each row are those of R68's map. -/
def encode : Instr → Request
  | .loadSs w i d => ⟨rowWord 0x00000000 w i 0, d⟩
  | .nextSs w i d => ⟨rowWord 0x00000001 w i 0, d⟩
  | .readSs w i d => ⟨rowWord 0x00000002 w i 0, d⟩
  | .eqSs w i i2 d => ⟨rowWord 0x00000003 w i i2, d⟩
  | .loadXs64 w i d => ⟨rowWord 0x00000008 w i 0, d⟩
  | .nextXs64 w i d => ⟨rowWord 0x00000009 w i 0, d⟩
  | .readXs64 w i d => ⟨rowWord 0x0000000A w i 0, d⟩
  | .eqXs64 w i i2 d => ⟨rowWord 0x0000000B w i i2, d⟩
  | .loadXs128p w i d => ⟨rowWord 0x00000010 w i 0, d⟩
  | .nextXs128p w i d => ⟨rowWord 0x00000011 w i 0, d⟩
  | .readXs128p w i d => ⟨rowWord 0x00000012 w i 0, d⟩
  | .eqXs128p w i i2 d => ⟨rowWord 0x00000013 w i i2, d⟩
  | .loadXrs128p w i d => ⟨rowWord 0x00000018 w i 0, d⟩
  | .nextXrs128p w i d => ⟨rowWord 0x00000019 w i 0, d⟩
  | .readXrs128p w i d => ⟨rowWord 0x0000001A w i 0, d⟩
  | .eqXrs128p w i i2 d => ⟨rowWord 0x0000001B w i i2, d⟩
  | .loadXsh256pp w i d => ⟨rowWord 0x00000020 w i 0, d⟩
  | .nextXsh256pp w i d => ⟨rowWord 0x00000021 w i 0, d⟩
  | .readXsh256pp w i d => ⟨rowWord 0x00000022 w i 0, d⟩
  | .eqXsh256pp w i i2 d => ⟨rowWord 0x00000023 w i i2, d⟩

/-- The request of a command as the bytes of a host bus. -/
def encodeBytes (c : Instr) : List Byte := bytesOfRequest (encode c)

/-! ### The opcode table's numbering of bits -/

/-- The number of data words a receiver expects after a command word: fixed by OP, FAM and WC (R65);
none after an illegal word. -/
def dataCountOf (cmd : CommandWord) : Nat :=
  match decode ⟨cmd, []⟩ with
  | .ok c => c.dataCount
  | .error _ => 0

/-- The request whose bits are `v`, numbered from the least significant bit of the command word: bits
`[31:0]` are the command word, the next 64 the first data word, and so on, for as many data words as
the command word calls for (R65); every bit at or above `nbits` is 0 (log 11). -/
def requestOfNumber (nbits v : Nat) : Request :=
  let low := v % 2 ^ nbits
  let cmd := BitVec.ofNat 32 low
  ⟨cmd, (List.range (dataCountOf cmd)).map fun n => BitVec.ofNat 64 (low / 2 ^ (32 + 64 * n))⟩

/-- The command the decoder reads from an instruction whose bits are `w`, numbered as
opcode_table.json numbers them, laid out as bus bytes. -/
def decodeTableWord (nbits w : Nat) : Option Instr :=
  match decodeBytes (bytesOfRequest (requestOfNumber nbits w)) with
  | .ok c => some c
  | .error _ => none

end Sys2Proof
end

