-- ==== Sys2Proof/Machine/Constants.lean ====
section
/-! DEFINITION. The recurrence constants of 00_scope.md R10, each under the name the spec gives it. They
stand here and not in Sys2Proof/Config.lean so that an audit of the source can mend one (D14). The
splitmix64 constants are the spec's general knowledge, not its source's (log 9); the others are the
source's, unaudited (log 10). -/

namespace Sys2Proof.Config

/-- `XS64_A`, left shift (41_xorshift64.md R91). -/
def xs64A : Nat := 13
/-- `XS64_B`, right shift (R91). -/
def xs64B : Nat := 17
/-- `XS64_C`, left shift (R91). -/
def xs64C : Nat := 5

/-- `XS128P_A`, left shift on s1 (42_xorshift128plus.md R101). -/
def xs128pA : Nat := 23
/-- `XS128P_B`, right shift on s1 (R101). -/
def xs128pB : Nat := 26
/-- `XS128P_C`, right shift on s0 (R101). -/
def xs128pC : Nat := 17

/-- `XRS_A`, rotate of s0 (43_xoroshiro128plus.md R111). -/
def xrsA : Nat := 24
/-- `XRS_B`, left shift on s1 (R111). -/
def xrsB : Nat := 16
/-- `XRS_C`, rotate of s1 (R111). -/
def xrsC : Nat := 37

/-- `XSH_R`, output rotate (44_xoshiro256plusplus.md R121). -/
def xshR : Nat := 23
/-- `XSH_J`, index of the word added to word0 in the output (R121). -/
def xshJ : Fin 4 := 1
/-- `XSH_T`, left shift for t (R121). -/
def xshT : Nat := 17
/-- `XSH_Q`, rotate of word3 (R121). -/
def xshQ : Nat := 45

/-- `SM_INC` (40_seedspreader.md R81, R10; from general knowledge by the spec's own word: UNVERIFIED, log 9). -/
def smInc : Word := 0x9E3779B97F4A7C15
/-- `SM_S1` (R81, log 9). -/
def smS1 : Nat := 30
/-- `SM_M1` (R81, log 9). -/
def smM1 : Word := 0xBF58476D1CE4E5B9
/-- `SM_S2` (R81, log 9). -/
def smS2 : Nat := 27
/-- `SM_M2` (R81, log 9). -/
def smM2 : Word := 0x94D049BB133111EB
/-- `SM_S3` (R81, log 9). -/
def smS3 : Nat := 31

end Sys2Proof.Config
end

