-- ==== Sys2Proof/Config.lean ====
section
/-! DEFINITION. What the building of a block fixes (00_scope.md R9) and the one free value. The
recurrence constants of R10 stand in Machine/Constants.lean, where an audit can mend them.
`LATENCY` (R9) is not here: no rule depends on it and the model has no time (R166, log 6). -/

namespace Sys2Proof.Config

/-- The parameters of R9. `WIDTHS_PRESENT` is a subset of {1, 2, 4, 8} that contains 1, so width 1
needs no bit; `N_INST` is 1 to 16, so it is held as its predecessor. Every value of this type is a
legal block and every legal block is a value of it. -/
structure Params where
  hasW2 : Bool
  hasW4 : Bool
  hasW8 : Bool
  /-- the highest instance of each family and width: `N_INST - 1` -/
  lastInst : Inst
  deriving DecidableEq, Repr

/-- FREE VALUE (R161, 93_implementation_defined.md I12, log 8): whether the request in flight at
the n-th reset that found one in flight had been performed. No body, so no proof can see it. -/
opaque inFlightPerformed : Nat → Bool

end Sys2Proof.Config
end

