-- ==== Sys2Proof/Machine/State.lean ====
section
/-! DEFINITION. The state of the block (10_state.md R20 to R34) with its port (30_encoding.md R55), the
reasons a step could stop, and the state after reset. -/

namespace Sys2Proof.Machine

open Sys2Proof.Config (Params)

/-! ### The units -/

/-- One lane of a family with two state words, XS128P or XRS128P (R21). -/
structure Lane2 where
  w0 : Word
  w1 : Word
  deriving DecidableEq, Repr

/-- One lane of XSH256PP (R21). -/
structure Lane4 where
  w0 : Word
  w1 : Word
  w2 : Word
  w3 : Word
  deriving DecidableEq, Repr

/-- What a unit holds: its flag `SEEDED(u)` (R23) and its W lanes, lane k at index k, each with the m(f)
state words of that lane (R21). A unit that has not been loaded since reset holds no lane: "a model
represents it as absent (no value)" (R32, log 4). `α` is the lane of the family: `Word` for SS and
XS64, `Lane2` for XS128P and XRS128P, `Lane4` for XSH256PP. -/
structure UnitRegs (α : Type) where
  seeded : Bool
  lanes  : List α
  deriving DecidableEq, Repr

/-- A unit after reset: not seeded (R33), no state word (R32). -/
def UnitRegs.reset {α : Type} : UnitRegs α := ⟨false, []⟩

/-- A unit of one family that has been loaded since reset, under its width and instance. -/
structure Slot (α : Type) where
  w    : Width
  i    : Inst
  regs : UnitRegs α
  deriving DecidableEq, Repr

/-- The units of one family (R20), in the order of their selectors; a unit that is not listed is as after
reset (log 5). `Bank.WellFormed` in Safety.lean is the canonical form. -/
abbrev Bank (α : Type) := List (Slot α)

/-! ### The port -/

/-- The status codes by name (60_exceptions.md R141: "No other value is ever produced"). -/
inductive Status
  | ok
  | errIllegal
  | errAbsent
  | errLength
  | errUnseeded
  deriving DecidableEq, Repr

/-- A response (R55). -/
structure Response where
  status : Status
  data   : List Word
  deriving DecidableEq, Repr

/-- What the host can do to the block (70_reset_and_hazards.md R160, R161, R163). -/
inductive Input
  /-- send a request -/
  | request (r : Request)
  /-- reset the block, no request being in flight (R160) -/
  | reset
  /-- reset the block while the request `r` is in flight, its response not yet received (R161) -/
  | resetInFlight (r : Request)
  deriving DecidableEq, Repr

/-! ### The state -/

/-- The whole state. Spec state: the five banks. Parameters, which no step writes: `params`. The port:
`inputs`, not yet performed, oldest first, and `responses`, given so far, oldest first (R48, log 1,
log 7). `draws` counts the uses of the free value `Config.inFlightPerformed` (log 8). -/
structure State where
  params    : Params
  ss        : Bank Word
  xs64      : Bank Word
  xs128p    : Bank Lane2
  xrs128p   : Bank Lane2
  xsh256pp  : Bank Lane4
  inputs    : List Input
  responses : List Response
  draws     : Nat
  deriving DecidableEq, Repr

/-- Why the machine could stop with a fault: it has no constructor, because the block has no trap and
answers every request (R140, R163, log 15). Nobody raises one. Safe: a fault that never comes proves
nothing. -/
inductive Fault
  deriving DecidableEq, Repr

/-- Why a command could be refused. -/
inductive Refusal
  /-- Raised by `exec` in the arm of a command that has no meaning yet; no arm is such. Safe: the model
  would stop where the hardware goes on. -/
  | notModelled (mnemonic : String)
  deriving DecidableEq, Repr

/-- The parameters `State.reset` is given (log 3): every width present and `N_INST` = 2, the values the
spec's own vectors assume (R9). DESIGN CHOICE: the spec leaves both open. -/
def defaultParams : Params := ⟨true, true, true, 1⟩

/-- The block right after reset (R33, R34, R160): no unit seeded, no state word, and a port on which
nothing has happened yet. -/
def State.reset : State where
  params    := defaultParams
  ss        := []
  xs64      := []
  xs128p    := []
  xrs128p   := []
  xsh256pp  := []
  inputs    := []
  responses := []
  draws     := 0

end Sys2Proof.Machine
end

