-- ==== Sys2Proof/Machine/Operands.lean ====
section
/-! DEFINITION. Operand forms: the order of data words on the port (30_encoding.md R62), the words of a
lane, the packed registers (10_state.md R22), and the rotate (00_scope.md R14). -/

namespace Sys2Proof.Machine

/-- `rotl(x, k)`, the spec's formula, for 1 <= k <= 63 (R14). -/
def rotl (x : Word) (k : Nat) : Word := (x <<< k) ||| (x >>> (64 - k))

/-! ### The words of a lane, word0 first (R21) -/

/-- A lane of SS or XS64 is one word. -/
def words1 (x : Word) : List Word := [x]

/-- The two words of an XS128P or XRS128P lane. -/
def Lane2.words (l : Lane2) : List Word := [l.w0, l.w1]

/-- The four words of an XSH256PP lane. -/
def Lane4.words (l : Lane4) : List Word := [l.w0, l.w1, l.w2, l.w3]

/-- `w[j]` of an XSH256PP lane (44_xoshiro256plusplus.md R121). -/
def Lane4.word (l : Lane4) (j : Fin 4) : Word :=
  match j with
  | 0 => l.w0
  | 1 => l.w1
  | 2 => l.w2
  | 3 => l.w3

/-! ### Word-major order (R62): data index `j*W + k` is word j of lane k -/

/-- The lanes of a one-word family of width W, from data in word-major order. -/
def lanesOfData1 (W : Nat) (d : List Word) : List Word := d.take W

/-- The lanes of a two-word family. -/
def lanesOfData2 (W : Nat) (d : List Word) : List Lane2 :=
  List.zipWith Lane2.mk (d.take W) ((d.drop W).take W)

/-- The lanes of a four-word family. -/
def lanesOfData4 (W : Nat) (d : List Word) : List Lane4 :=
  List.zipWith (fun a b => Lane4.mk a.w0 a.w1 b.w0 b.w1) (lanesOfData2 W d)
    (lanesOfData2 W (d.drop (2 * W)))

/-- The state words of a one-word family's lanes, in word-major order. -/
def dataOfLanes1 (lanes : List Word) : List Word := lanes

/-- The state words of a two-word family's lanes, in word-major order. -/
def dataOfLanes2 (lanes : List Lane2) : List Word := lanes.map (·.w0) ++ lanes.map (·.w1)

/-- The state words of a four-word family's lanes, in word-major order. -/
def dataOfLanes4 (lanes : List Lane4) : List Word :=
  lanes.map (·.w0) ++ lanes.map (·.w1) ++ lanes.map (·.w2) ++ lanes.map (·.w3)

/-! ### Packed registers (R22) -/

/-- The number a packed register holds: lane 0 is least significant, 64 bits a lane. -/
def packLanes : List Word → Nat
  | [] => 0
  | x :: rest => x.toNat + 2 ^ 64 * packLanes rest

/-! ### The EQ result (45_equality_and_extraction.md R131) -/

/-- `zext_64(eq)`: 1 if equal, 0 if not. -/
def wordOfBool (b : Bool) : Word := if b then 1 else 0

end Sys2Proof.Machine
end

