-- ==== Sys2Proof/Machine/Flags.lean ====
section
/-! DEFINITION. The store of units and its one flag, `SEEDED(u)` (10_state.md R20, R23), and the status
codes (60_exceptions.md R141). There is no other flag (R26). -/

namespace Sys2Proof.Machine

open Sys2Proof.Config (Params)

/-- The place of a unit in its family's store: bits `[11:6]` of a command word that names it, which are
INST above WC (30_encoding.md R56, 20_memory.md R41). -/
def selector (w : Width) (i : Inst) : Nat := w.code + 4 * i.val

/-- What the unit of width w and instance i holds; one that is not listed is as after reset (log 5). -/
def Bank.unitAt {α : Type} : Bank α → Width → Inst → UnitRegs α
  | [], _, _ => UnitRegs.reset
  | e :: rest, w, i => if e.w = w ∧ e.i = i then e.regs else Bank.unitAt rest w i

/-- The store with the unit of width w and instance i holding `u`; every other unit is as before. Called
with a seeded `u` only, so an entry is never as after reset. -/
def Bank.store {α : Type} : Bank α → Width → Inst → UnitRegs α → Bank α
  | [], w, i, u => [⟨w, i, u⟩]
  | e :: rest, w, i, u =>
    if e.w = w ∧ e.i = i then ⟨w, i, u⟩ :: rest
    else if selector w i < selector e.w e.i then ⟨w, i, u⟩ :: e :: rest
    else e :: Bank.store rest w i u

/-- `SEEDED((f, W, i))` for every instance i of the list, in the store of family f (R64 part 4). -/
def Bank.allSeeded {α : Type} (b : Bank α) (w : Width) (is : List Inst) : Bool :=
  is.all fun i => (Bank.unitAt b w i).seeded

/-- Whether W is in `WIDTHS_PRESENT` (00_scope.md R9). -/
def widthPresent (p : Params) : Width → Bool
  | .w1 => true
  | .w2 => p.hasW2
  | .w4 => p.hasW4
  | .w8 => p.hasW8

/-- `N_INST` (R9). -/
def instanceCount (p : Params) : Nat := p.lastInst.val + 1

/-- Whether the units of width w and of every instance of the list exist (R20; R64 part 2): the same for
every family. -/
def unitsExist (p : Params) (w : Width) (is : List Inst) : Bool :=
  widthPresent p w && is.all fun i => decide (i.val < instanceCount p)

/-- The 8-bit status code (R141). -/
def Status.code : Status → BitVec 8
  | .ok => 0x00
  | .errIllegal => 0x01
  | .errAbsent => 0x02
  | .errLength => 0x03
  | .errUnseeded => 0x04

end Sys2Proof.Machine
end

