-- ==== Sys2Proof/Machine/Ops.lean ====
section
/-! DEFINITION. The shared operations: answering, the checks of 30_encoding.md R64, the four operations
over the units of any family, reset, and the spec's names `S(u)[j][k]` and `SEEDED(u)` for what State
holds. -/

namespace Sys2Proof.Machine

open Sys2Proof.Config (Params)

/-! ### Answering (00_scope.md R16) -/

/-- The state with one more response given. -/
def State.answer (s : State) (st : Status) (d : List Word) : State :=
  { s with responses := s.responses ++ [⟨st, d⟩] }

/-- `respond(status, d_0, ...)`: the end of every command (R16). -/
def respond (st : Status) (d : List Word) (s : State) : Host.Outcome State Fault Refusal :=
  .next (s.answer st d)

/-- `raise ERR_X`: a response without data, and no write to any state. It is "the only form of
"exception" in the block" (R16; 60_exceptions.md R140, R142): no register saves anything, no mode changes,
nothing jumps, and there is no return from it (R145). -/
def raise (st : Status) (s : State) : Host.Outcome State Fault Refusal := respond st [] s

/-! ### The checks of R64, parts 2 to 4 -/

/-- The first check that fails, in R64's order: existence, data length, seeded. `want` is the length R63
gives and `have_` the one that came; `seeded` is true for LOAD, which does not look. -/
def firstError (p : Params) (w : Width) (is : List Inst) (want have_ : Nat) (seeded : Bool) :
    Option Status :=
  if unitsExist p w is = false then some .errAbsent
  else if have_ ≠ want then some .errLength
  else if seeded = false then some .errUnseeded
  else none

/-! ### A family, as the operations see it -/

/-- What makes one family different from another: the word count m(f), the words of a lane, word-major
order in and out (R62), the recurrence of one lane (its new words and its output), and the family's
store. -/
structure FamilyOps (α : Type) where
  wordCount : Nat
  words     : α → List Word
  ofData    : Nat → List Word → List α
  toData    : List α → List Word
  next      : α → α × Word
  bank      : State → Bank α
  setBank   : State → Bank α → State

/-- LOAD (R80, R90, R100, R110, R120): every word of the unit is written and SEEDED is set. -/
def loadUnit {α : Type} (F : FamilyOps α) (w : Width) (i : Inst) (d : List Word) (s : State) :
    Host.Outcome State Fault Refusal :=
  match firstError s.params w [i] (F.wordCount * w.lanes) d.length true with
  | some e => raise e s
  | none =>
    respond .ok [] (F.setBank s (Bank.store (F.bank s) w i ⟨true, F.ofData w.lanes d⟩))

/-- NEXT (R81, R91, R101, R111, R121): each lane is stepped by itself (10_state.md R27), all together
(20_memory.md R45); the outputs go out in lane order. -/
def nextUnit {α : Type} (F : FamilyOps α) (w : Width) (i : Inst) (d : List Word) (s : State) :
    Host.Outcome State Fault Refusal :=
  match firstError s.params w [i] 0 d.length (Bank.allSeeded (F.bank s) w [i]) with
  | some e => raise e s
  | none =>
    let u := Bank.unitAt (F.bank s) w i
    let stepped := u.lanes.map F.next
    respond .ok (stepped.map (·.2))
      (F.setBank s (Bank.store (F.bank s) w i ⟨u.seeded, stepped.map (·.1)⟩))

/-- READ (45_equality_and_extraction.md R130): every state word, word-major; nothing is written. -/
def readUnit {α : Type} (F : FamilyOps α) (w : Width) (i : Inst) (d : List Word) (s : State) :
    Host.Outcome State Fault Refusal :=
  match firstError s.params w [i] 0 d.length (Bank.allSeeded (F.bank s) w [i]) with
  | some e => raise e s
  | none => respond .ok (F.toData (Bank.unitAt (F.bank s) w i).lanes) s

/-- EQ (R131): whether every state word of the two units matches; nothing is written. -/
def eqUnits {α : Type} [DecidableEq α] (F : FamilyOps α) (w : Width) (i i2 : Inst) (d : List Word)
    (s : State) : Host.Outcome State Fault Refusal :=
  match firstError s.params w [i, i2] 0 d.length (Bank.allSeeded (F.bank s) w [i, i2]) with
  | some e => raise e s
  | none =>
    respond .ok
      [wordOfBool
        (decide ((Bank.unitAt (F.bank s) w i).lanes = (Bank.unitAt (F.bank s) w i2).lanes))] s

/-! ### Reset (70_reset_and_hazards.md R160) -/

/-- Every unit as after reset; "Reset has no other effect" and gives no response. -/
def State.resetUnits (s : State) : State :=
  { s with ss := [], xs64 := [], xs128p := [], xrs128p := [], xsh256pp := [] }

/-! ### The spec's names for the state -/

/-- What a unit of any family holds, in one form: SEEDED(u), and for each lane its words. -/
structure UnitView where
  seeded : Bool
  lanes  : List (List Word)
  deriving DecidableEq, Repr

/-- A unit's registers seen in that form. -/
def UnitRegs.view {α : Type} (words : α → List Word) (u : UnitRegs α) : UnitView :=
  ⟨u.seeded, u.lanes.map words⟩

/-- The unit (f, W, i) (00_scope.md R15). -/
def State.unit (s : State) (f : Family) (w : Width) (i : Inst) : UnitView :=
  match f with
  | .ss => (Bank.unitAt s.ss w i).view words1
  | .xs64 => (Bank.unitAt s.xs64 w i).view words1
  | .xs128p => (Bank.unitAt s.xs128p w i).view Lane2.words
  | .xrs128p => (Bank.unitAt s.xrs128p w i).view Lane2.words
  | .xsh256pp => (Bank.unitAt s.xsh256pp w i).view Lane4.words

/-- `SEEDED((f, W, i))` (10_state.md R23). -/
def State.isSeeded (s : State) (f : Family) (w : Width) (i : Inst) : Bool := (s.unit f w i).seeded

/-- `S((f, W, i))[j][k]`, word j of lane k, or no value (R15, R32). -/
def State.word? (s : State) (f : Family) (w : Width) (i : Inst) (j k : Nat) : Option Word :=
  ((s.unit f w i).lanes[k]?).bind (·[j]?)

/-- The packed register `R_j` of a unit, W*64 bits (R21, R22). -/
def State.packedRegister (s : State) (f : Family) (w : Width) (i : Inst) (j : Nat) :
    BitVec (64 * w.lanes) :=
  BitVec.ofNat (64 * w.lanes) (packLanes ((s.unit f w i).lanes.filterMap (·[j]?)))

end Sys2Proof.Machine
end

