-- ==== Sys2Proof/Machine/SeedSpreader.lean ====
section
/-! DEFINITION. The SeedSpreader family (40_seedspreader.md): its recurrence and its four commands. -/

namespace Sys2Proof.Machine

open Sys2Proof.Config

/-- The mixing of R81, on the stored word: two rounds of xor-with-right-shift and multiply, then a last
xor-with-right-shift. It writes no state. -/
def ssMix (s : Word) : Word :=
  let z := (s ^^^ (s >>> smS1)) * smM1
  let z := (z ^^^ (z >>> smS2)) * smM2
  z ^^^ (z >>> smS3)

/-- NEXT of one lane (R81): the stored word is the sum, unmixed; the output is the mixed word. Every lane
adds the same `SM_INC` (C3). -/
def ssNext (s : Word) : Word × Word :=
  let s := s + smInc
  (s, ssMix s)

/-- The family, as the shared operations see it. -/
def ssOps : FamilyOps Word where
  wordCount := 1
  words     := words1
  ofData    := lanesOfData1
  toData    := dataOfLanes1
  next      := ssNext
  bank      := State.ss
  setBank   := fun s b => { s with ss := b }

/-- `load_ss` (R80). -/
def execLoadSs (w : Width) (i : Inst) (d : List Word) (s : State) :
    Host.Outcome State Fault Refusal := loadUnit ssOps w i d s

/-- `next_ss` (R81). -/
def execNextSs (w : Width) (i : Inst) (d : List Word) (s : State) :
    Host.Outcome State Fault Refusal := nextUnit ssOps w i d s

/-- `read_ss` (45_equality_and_extraction.md R130). -/
def execReadSs (w : Width) (i : Inst) (d : List Word) (s : State) :
    Host.Outcome State Fault Refusal := readUnit ssOps w i d s

/-- `eq_ss` (R131). -/
def execEqSs (w : Width) (i i2 : Inst) (d : List Word) (s : State) :
    Host.Outcome State Fault Refusal := eqUnits ssOps w i i2 d s

end Sys2Proof.Machine
end

