-- ==== Sys2Proof/Machine/Xoroshiro128Plus.lean ====
section
/-! DEFINITION. The Xoroshiro128Plus family (43_xoroshiro128plus.md): its recurrence and its four commands. -/

namespace Sys2Proof.Machine

open Sys2Proof.Config

/-- NEXT of one lane (R111): the output is the sum of the two old words. -/
def xrs128pNext (l : Lane2) : Lane2 × Word :=
  let s0 := l.w0
  let s1 := l.w1
  let out := s0 + s1
  let s1 := s1 ^^^ s0
  let n0 := rotl s0 xrsA ^^^ s1 ^^^ (s1 <<< xrsB)
  let n1 := rotl s1 xrsC
  (⟨n0, n1⟩, out)

/-- The family, as the shared operations see it. -/
def xrs128pOps : FamilyOps Lane2 where
  wordCount := 2
  words     := Lane2.words
  ofData    := lanesOfData2
  toData    := dataOfLanes2
  next      := xrs128pNext
  bank      := State.xrs128p
  setBank   := fun s b => { s with xrs128p := b }

/-- `load_xrs128p` (R110). -/
def execLoadXrs128p (w : Width) (i : Inst) (d : List Word) (s : State) :
    Host.Outcome State Fault Refusal := loadUnit xrs128pOps w i d s

/-- `next_xrs128p` (R111). -/
def execNextXrs128p (w : Width) (i : Inst) (d : List Word) (s : State) :
    Host.Outcome State Fault Refusal := nextUnit xrs128pOps w i d s

/-- `read_xrs128p` (45_equality_and_extraction.md R130). -/
def execReadXrs128p (w : Width) (i : Inst) (d : List Word) (s : State) :
    Host.Outcome State Fault Refusal := readUnit xrs128pOps w i d s

/-- `eq_xrs128p` (R131). -/
def execEqXrs128p (w : Width) (i i2 : Inst) (d : List Word) (s : State) :
    Host.Outcome State Fault Refusal := eqUnits xrs128pOps w i i2 d s

end Sys2Proof.Machine
end

