-- ==== Sys2Proof/Machine/Xorshift128Plus.lean ====
section
/-! DEFINITION. The Xorshift128Plus family (42_xorshift128plus.md): its recurrence and its four commands. -/

namespace Sys2Proof.Machine

open Sys2Proof.Config

/-- NEXT of one lane (R101): s1 is word0 and s0 is word1; the output is the sum of the two new words (C1). -/
def xs128pNext (l : Lane2) : Lane2 × Word :=
  let s1 := l.w0
  let s0 := l.w1
  let s1 := s1 ^^^ (s1 <<< xs128pA)
  let n1 := s1 ^^^ s0 ^^^ (s1 >>> xs128pB) ^^^ (s0 >>> xs128pC)
  let n0 := s0
  (⟨n0, n1⟩, n0 + n1)

/-- The family, as the shared operations see it. -/
def xs128pOps : FamilyOps Lane2 where
  wordCount := 2
  words     := Lane2.words
  ofData    := lanesOfData2
  toData    := dataOfLanes2
  next      := xs128pNext
  bank      := State.xs128p
  setBank   := fun s b => { s with xs128p := b }

/-- `load_xs128p` (R100). -/
def execLoadXs128p (w : Width) (i : Inst) (d : List Word) (s : State) :
    Host.Outcome State Fault Refusal := loadUnit xs128pOps w i d s

/-- `next_xs128p` (R101). -/
def execNextXs128p (w : Width) (i : Inst) (d : List Word) (s : State) :
    Host.Outcome State Fault Refusal := nextUnit xs128pOps w i d s

/-- `read_xs128p` (45_equality_and_extraction.md R130). -/
def execReadXs128p (w : Width) (i : Inst) (d : List Word) (s : State) :
    Host.Outcome State Fault Refusal := readUnit xs128pOps w i d s

/-- `eq_xs128p` (R131). -/
def execEqXs128p (w : Width) (i i2 : Inst) (d : List Word) (s : State) :
    Host.Outcome State Fault Refusal := eqUnits xs128pOps w i i2 d s

end Sys2Proof.Machine
end

