-- ==== Sys2Proof/Machine/Xorshift64.lean ====
section
/-! DEFINITION. The Xorshift64 family (41_xorshift64.md): its recurrence and its four commands. -/

namespace Sys2Proof.Machine

open Sys2Proof.Config

/-- NEXT of one lane (R91): three xor-shift steps, 13 left, 17 right, 5 left, each on the word the step
before it left; the output is the new state. -/
def xs64Next (x : Word) : Word × Word :=
  let x := x ^^^ (x <<< xs64A)
  let x := x ^^^ (x >>> xs64B)
  let x := x ^^^ (x <<< xs64C)
  (x, x)

/-- The family, as the shared operations see it. -/
def xs64Ops : FamilyOps Word where
  wordCount := 1
  words     := words1
  ofData    := lanesOfData1
  toData    := dataOfLanes1
  next      := xs64Next
  bank      := State.xs64
  setBank   := fun s b => { s with xs64 := b }

/-- `load_xs64` (R90). -/
def execLoadXs64 (w : Width) (i : Inst) (d : List Word) (s : State) :
    Host.Outcome State Fault Refusal := loadUnit xs64Ops w i d s

/-- `next_xs64` (R91). -/
def execNextXs64 (w : Width) (i : Inst) (d : List Word) (s : State) :
    Host.Outcome State Fault Refusal := nextUnit xs64Ops w i d s

/-- `read_xs64` (45_equality_and_extraction.md R130). -/
def execReadXs64 (w : Width) (i : Inst) (d : List Word) (s : State) :
    Host.Outcome State Fault Refusal := readUnit xs64Ops w i d s

/-- `eq_xs64` (R131). -/
def execEqXs64 (w : Width) (i i2 : Inst) (d : List Word) (s : State) :
    Host.Outcome State Fault Refusal := eqUnits xs64Ops w i i2 d s

end Sys2Proof.Machine
end

