-- ==== Sys2Proof/Machine/Xoshiro256PlusPlus.lean ====
section
/-! DEFINITION. The Xoshiro256PlusPlus family (44_xoshiro256plusplus.md): its recurrence and its four commands. -/

namespace Sys2Proof.Machine

open Sys2Proof.Config

/-- NEXT of one lane (R121): the output is taken from the old words, then the six statements run in the
order written, each reading the words as the statements before it left them (R122). -/
def xsh256ppNext (l : Lane4) : Lane4 × Word :=
  let out := rotl (l.w0 + l.word xshJ) xshR + l.w0
  let t := l.w1 <<< xshT
  let w2 := l.w2 ^^^ l.w0
  let w3 := l.w3 ^^^ l.w1
  let w1 := l.w1 ^^^ w2
  let w0 := l.w0 ^^^ w3
  let w2 := w2 ^^^ t
  let w3 := rotl w3 xshQ
  (⟨w0, w1, w2, w3⟩, out)

/-- The family, as the shared operations see it. -/
def xsh256ppOps : FamilyOps Lane4 where
  wordCount := 4
  words     := Lane4.words
  ofData    := lanesOfData4
  toData    := dataOfLanes4
  next      := xsh256ppNext
  bank      := State.xsh256pp
  setBank   := fun s b => { s with xsh256pp := b }

/-- `load_xsh256pp` (R120). -/
def execLoadXsh256pp (w : Width) (i : Inst) (d : List Word) (s : State) :
    Host.Outcome State Fault Refusal := loadUnit xsh256ppOps w i d s

/-- `next_xsh256pp` (R121). -/
def execNextXsh256pp (w : Width) (i : Inst) (d : List Word) (s : State) :
    Host.Outcome State Fault Refusal := nextUnit xsh256ppOps w i d s

/-- `read_xsh256pp` (45_equality_and_extraction.md R130). -/
def execReadXsh256pp (w : Width) (i : Inst) (d : List Word) (s : State) :
    Host.Outcome State Fault Refusal := readUnit xsh256ppOps w i d s

/-- `eq_xsh256pp` (R131). -/
def execEqXsh256pp (w : Width) (i i2 : Inst) (d : List Word) (s : State) :
    Host.Outcome State Fault Refusal := eqUnits xsh256ppOps w i i2 d s

end Sys2Proof.Machine
end

