-- ==== Sys2Proof/Machine/Dispatch.lean ====
section
/-! DEFINITION. Which meaning a command has (30_encoding.md R64 part 5): one arm per constructor. -/

namespace Sys2Proof.Machine

def exec (i : Instr) (s : State) : Host.Outcome State Fault Refusal :=
  match i with
  | .loadSs w inst d => Sys2Proof.Machine.execLoadSs w inst d s
  | .nextSs w inst d => Sys2Proof.Machine.execNextSs w inst d s
  | .readSs w inst d => Sys2Proof.Machine.execReadSs w inst d s
  | .eqSs w inst inst2 d => Sys2Proof.Machine.execEqSs w inst inst2 d s
  | .loadXs64 w inst d => Sys2Proof.Machine.execLoadXs64 w inst d s
  | .nextXs64 w inst d => Sys2Proof.Machine.execNextXs64 w inst d s
  | .readXs64 w inst d => Sys2Proof.Machine.execReadXs64 w inst d s
  | .eqXs64 w inst inst2 d => Sys2Proof.Machine.execEqXs64 w inst inst2 d s
  | .loadXs128p w inst d => Sys2Proof.Machine.execLoadXs128p w inst d s
  | .nextXs128p w inst d => Sys2Proof.Machine.execNextXs128p w inst d s
  | .readXs128p w inst d => Sys2Proof.Machine.execReadXs128p w inst d s
  | .eqXs128p w inst inst2 d => Sys2Proof.Machine.execEqXs128p w inst inst2 d s
  | .loadXrs128p w inst d => Sys2Proof.Machine.execLoadXrs128p w inst d s
  | .nextXrs128p w inst d => Sys2Proof.Machine.execNextXrs128p w inst d s
  | .readXrs128p w inst d => Sys2Proof.Machine.execReadXrs128p w inst d s
  | .eqXrs128p w inst inst2 d => Sys2Proof.Machine.execEqXrs128p w inst inst2 d s
  | .loadXsh256pp w inst d => Sys2Proof.Machine.execLoadXsh256pp w inst d s
  | .nextXsh256pp w inst d => Sys2Proof.Machine.execNextXsh256pp w inst d s
  | .readXsh256pp w inst d => Sys2Proof.Machine.execReadXsh256pp w inst d s
  | .eqXsh256pp w inst inst2 d => Sys2Proof.Machine.execEqXsh256pp w inst inst2 d s

end Sys2Proof.Machine
end

