-- ==== Sys2Proof/Machine/Port.lean ====
section
/-! DEFINITION. The command port (30_encoding.md R55, R64): what the block does with one thing the host
sends, and where the next command comes from. -/

namespace Sys2Proof.Machine

/-- One request, from its command word to its one response (R64): an illegal command word is answered
ERR_ILLEGAL and changes nothing (R66, R142); any other is performed (log 17). -/
def performRequest (r : Request) (s : State) : Host.Outcome State Fault Refusal :=
  match decode r with
  | .ok c => exec c s
  | .error _ => raise .errIllegal s

/-- Reset with the request `r` in flight (70_reset_and_hazards.md R161): it "has either been performed in
whole or not at all", and the host never receives its response. -/
def resetInFlight (performed : Bool) (r : Request) (s : State) :
    Host.Outcome State Fault Refusal :=
  if performed then
    match performRequest r s with
    | .next t => .next ({ t with responses := s.responses }).resetUnits
    | .fault e => .fault e
    | .refused e => .refused e
  else .next s.resetUnits

/-- What the block does with one thing the host sends. Whether a request in flight at a reset was
performed is the free value (log 8). -/
def serveInput (e : Input) (s : State) : Host.Outcome State Fault Refusal :=
  match e with
  | .request r => performRequest r s
  | .reset => .next s.resetUnits
  | .resetInFlight r =>
    resetInFlight (Config.inFlightPerformed s.draws) r { s with draws := s.draws + 1 }

/-- One step: the oldest input is taken and served (20_memory.md R48). With none there, the block
"waits for the first request" (R162): nothing changes (log 2). -/
def takeInput (s : State) : Host.Outcome State Fault Refusal :=
  match s.inputs with
  | [] => .next s
  | e :: rest => serveInput e { s with inputs := rest }

/-- The state with a request put where `takeInput` takes its next one. -/
def State.sendFirst (s : State) (r : Request) : State :=
  { s with inputs := .request r :: s.inputs }

end Sys2Proof.Machine
end

