-- ==== Sys2Proof/Machine/Step.lean ====
section
/-! DEFINITION. The step: one request of the host performed (00_scope.md R6, 20_memory.md R45, R48), or one
reset (70_reset_and_hazards.md R160). -/

namespace Sys2Proof.Machine

/-- One step of the block. -/
def step (s : State) : Host.Outcome State Fault Refusal := takeInput s

/-- `s` with the request whose bits are `w` standing first on the port, so that the next step performs
exactly it (log 11, log 12). Nothing else changes. -/
def State.withFetchWord (s : State) (nbits w : Nat) : State :=
  s.sendFirst (requestOfNumber nbits w)

end Sys2Proof.Machine
end

