-- ==== Sys2Proof/Machine/Pseudo.lean ====
section
/-! DEFINITION. The pseudo-commands (30_encoding.md R70, R71): sequences of requests that the host itself
carries out (70_reset_and_hazards.md R163). They are no command words and no arm of `exec`. -/

namespace Sys2Proof.Machine

/-- The families `seed` constructs (R70). -/
inductive SeedTarget
  | xs64
  | xs128p
  | xrs128p
  | xsh256pp
  deriving DecidableEq, Repr

/-- The family a `seed` names. -/
def SeedTarget.family : SeedTarget → Family
  | .xs64 => .xs64
  | .xs128p => .xs128p
  | .xrs128p => .xrs128p
  | .xsh256pp => .xsh256pp

/-- The host sends n requests `next ss.w<W>[p]`, one after the other, and keeps the answered words after
those in `got`. At an answer other than OK it stops, with no words. -/
def collectSeeds (w : Width) (p : Inst) :
    Nat → List Word → State → Host.Outcome (State × Option (List Word)) Fault Refusal
  | 0, got, s => .next (s, some got)
  | n + 1, got, s =>
    match exec (.nextSs w p []) s with
    | .next t =>
      match t.responses.getLast? with
      | some ⟨.ok, y⟩ => collectSeeds w p n (got ++ y) t
      | _ => .next (t, none)
    | .fault e => .fault e
    | .refused e => .refused e

/-- `seed <fam>.w<W>[<i>], ss.w<W>[<p>]` (R70): m NEXTs of the SeedSpreader, the j-th supplying word j,
then one LOAD; no LOAD if a NEXT failed. This is the sequence with no other request in between (log 14). -/
def seed (f : SeedTarget) (w : Width) (i p : Inst) (s : State) :
    Host.Outcome State Fault Refusal :=
  match collectSeeds w p f.family.wordCount [] s with
  | .next (t, some d) => exec (Instr.loadOf f.family w i d) t
  | .next (t, none) => .next t
  | .fault e => .fault e
  | .refused e => .refused e

/-- `loadb <fam>.w<W>[<i>], v_0, ..., v_{m-1}` (R71): the LOAD with each value repeated W times. -/
def loadb (f : Family) (w : Width) (i : Inst) (v : List Word) : Instr :=
  Instr.loadOf f w i (v.flatMap (List.replicate w.lanes))

end Sys2Proof.Machine
end

