-- ==== Sys2Proof/Safety.lean ====
section
/-! DEFINITION. What claims take as premises: the canonical form of the units' stores, and the answers of
a run that went well (92_eei_decisions.md D8). -/

namespace Sys2Proof.Machine

open Sys2Proof.Config (Params)

/-- The canonical form of one family's store: selectors strictly rising, and every listed unit exists
(10_state.md R20), is seeded, and holds W lanes (R21). So two stores that hold the same units are the same
list, and a unit is seeded exactly when its words have values (R32). -/
abbrev Bank.WellFormed {α : Type} (p : Params) (b : Bank α) : Prop :=
  b.Pairwise (fun a e => selector a.w a.i < selector e.w e.i) ∧
    ∀ e ∈ b, e.regs.seeded = true ∧ e.regs.lanes.length = e.w.lanes ∧
      unitsExist p e.w [e.i] = true

/-- The canonical form of the state. -/
abbrev State.WellFormed (s : State) : Prop :=
  Bank.WellFormed s.params s.ss ∧ Bank.WellFormed s.params s.xs64 ∧
    Bank.WellFormed s.params s.xs128p ∧ Bank.WellFormed s.params s.xrs128p ∧
      Bank.WellFormed s.params s.xsh256pp

/-- Every response so far is OK: "Claims should take "every response OK" as a premise" (D8). -/
def State.allOk (s : State) : Bool := s.responses.all fun r => r.status == .ok

end Sys2Proof.Machine
end

