-- ==== Sys2Proof/Certificates/Slice0/Obligations.lean ====
section
/-! DEFINITION. The statements for the provers. Each docstring names the rule of spec/ it formalises. The
words the statements share stand first, under Sys2Proof.Statements. -/

namespace Sys2Proof.Statements

open Sys2Proof.Machine

/-- `raise ERR_X` (00_scope.md R16): `s` with one more response, of this status and without data, and
nothing else changed. -/
def raised (s : State) (st : Status) : State :=
  { s with responses := s.responses ++ [⟨st, []⟩] }

/-- The OK response with these data words, given after those of `s` (R16). -/
def AnswersOk (s t : State) (d : List Word) : Prop := t.responses = s.responses ++ [⟨.ok, d⟩]

/-- Nothing but the unit (f, W, i) and the list of responses differs between `s` and `t`: every other unit's
SEEDED flag and words, the parameters, what is waiting on the port, the counter of draws. -/
def OnlyUnit (f : Family) (w : Width) (i : Inst) (s t : State) : Prop :=
  (∀ f' w' i', (f', w', i') ≠ (f, w, i) → t.unit f' w' i' = s.unit f' w' i') ∧
    t.params = s.params ∧ t.inputs = s.inputs ∧ t.draws = s.draws

/-- The number of FAM's value for a family (30_encoding.md R58). -/
def famCode : Family → Nat
  | .ss => 0
  | .xs64 => 1
  | .xs128p => 2
  | .xrs128p => 3
  | .xsh256pp => 4

/-- The number of OP's value for an operation (30_encoding.md R57). -/
def opCode : Op → Nat
  | .load => 0
  | .next => 1
  | .read => 2
  | .eq => 3

/-- `fixed | WC << 6 | INST << 8 | INST2 << 12`, as the family files write command words (R68). -/
def commandWord (fixed : CommandWord) (w : Width) (i i2 : Inst) : CommandWord :=
  fixed ||| (BitVec.ofNat 32 w.code <<< 6) ||| (BitVec.ofNat 32 i.val <<< 8) |||
    (BitVec.ofNat 32 i2.val <<< 12)

/-- The twenty words of the opcode map (R68), for W = 1 and INST = INST2 = 0. -/
def mapWord : Op → Family → CommandWord
  | .load, .ss => 0x00000000
  | .next, .ss => 0x00000001
  | .read, .ss => 0x00000002
  | .eq, .ss => 0x00000003
  | .load, .xs64 => 0x00000008
  | .next, .xs64 => 0x00000009
  | .read, .xs64 => 0x0000000A
  | .eq, .xs64 => 0x0000000B
  | .load, .xs128p => 0x00000010
  | .next, .xs128p => 0x00000011
  | .read, .xs128p => 0x00000012
  | .eq, .xs128p => 0x00000013
  | .load, .xrs128p => 0x00000018
  | .next, .xrs128p => 0x00000019
  | .read, .xrs128p => 0x0000001A
  | .eq, .xrs128p => 0x0000001B
  | .load, .xsh256pp => 0x00000020
  | .next, .xsh256pp => 0x00000021
  | .read, .xsh256pp => 0x00000022
  | .eq, .xsh256pp => 0x00000023

/-- The checks of R64, parts 2 and 3, on a LOAD that names (W, i) and must carry `n` data words: what `exec`
answers when one fails. -/
def LoadChecks (c : Instr) (n : Nat) : Prop :=
  ∀ s : State,
    (unitsExist s.params c.width [c.inst] = false → exec c s = .next (raised s .errAbsent)) ∧
      (unitsExist s.params c.width [c.inst] = true → c.data.length ≠ n →
        exec c s = .next (raised s .errLength))

/-- The checks of R64, parts 2 to 4, on a command without data that reads the units (f, W, i) for the
instances i of `is`. -/
def ReadingChecks (c : Instr) (f : Family) (is : List Inst) : Prop :=
  ∀ s : State,
    (unitsExist s.params c.width is = false → exec c s = .next (raised s .errAbsent)) ∧
      (unitsExist s.params c.width is = true → c.data ≠ [] →
        exec c s = .next (raised s .errLength)) ∧
      (unitsExist s.params c.width is = true → c.data = [] →
        (∃ i ∈ is, s.isSeeded f c.width i = false) → exec c s = .next (raised s .errUnseeded))

/-- What every NEXT that passes the checks leaves: OK with W outputs, SEEDED still set, nothing outside the
unit changed, and in every lane k the words `old` became the words `new` with output `out`, as `law old`
says. -/
def NextCompletes (c : Instr) (f : Family) (w : Width) (i : Inst)
    (law : List Word → List Word × Word) : Prop :=
  ∀ s : State, s.WellFormed → unitsExist s.params w [i] = true → s.isSeeded f w i = true →
    ∃ t out, exec c s = .next t ∧ AnswersOk s t out ∧ out.length = w.lanes ∧
      t.isSeeded f w i = true ∧ OnlyUnit f w i s t ∧
      ∀ k < w.lanes, ∃ old : List Word, old.length = f.wordCount ∧
        (∀ j < f.wordCount, s.word? f w i j k = old[j]?) ∧
        (law old).1.length = f.wordCount ∧
        (∀ j < f.wordCount, t.word? f w i j k = (law old).1[j]?) ∧ out[k]? = some (law old).2

/-- What every LOAD that passes the checks leaves: OK without data, SEEDED set, word j of lane k holding data
word j*W + k (R62), nothing outside the unit changed. -/
def LoadCompletes (c : Instr) (f : Family) (w : Width) (i : Inst) (d : List Word) : Prop :=
  ∀ s : State, unitsExist s.params w [i] = true → d.length = f.wordCount * w.lanes →
    ∃ t, exec c s = .next t ∧ AnswersOk s t [] ∧ t.isSeeded f w i = true ∧ OnlyUnit f w i s t ∧
      ∀ j < f.wordCount, ∀ k < w.lanes,
        ∃ x, d[j * w.lanes + k]? = some x ∧ t.word? f w i j k = some x

/-- Commands performed one after the other, as the host sends them. -/
def execAll : List Instr → State → Host.Outcome State Fault Refusal
  | [], s => .next s
  | c :: rest, s =>
    match exec c s with
    | .next t => execAll rest t
    | .fault e => .fault e
    | .refused e => .refused e

/-- One command of a script about one unit, for lane equivalence (10_state.md R27). -/
inductive UnitCommand
  | load (d : List Word)
  | next
  deriving DecidableEq, Repr

/-- The script's command on the unit (f, W, i). -/
def UnitCommand.wide (f : Family) (w : Width) (i : Inst) : UnitCommand → Instr
  | .load d => .loadOf f w i d
  | .next => .nextOf f w i []

/-- The same command on a scalar unit of the family, with lane k's words only. -/
def UnitCommand.scalar (f : Family) (w : Width) (i : Inst) (k : Nat) : UnitCommand → Instr
  | .load d => .loadOf f .w1 i ((List.range f.wordCount).map fun j => d.getD (j * w.lanes + k) 0)
  | .next => .nextOf f .w1 i []

/-- Every LOAD of the script carries the data words R63 asks for. -/
def UnitCommand.LengthOk (f : Family) (w : Width) : UnitCommand → Prop
  | .load d => d.length = f.wordCount * w.lanes
  | .next => True

/-- `rotr(x, k) = rotl(x, 64 - k)` (43_xoroshiro128plus.md R113). -/
def rotr (x : Word) (k : Nat) : Word := rotl x (64 - k)

end Sys2Proof.Statements

open Sys2Proof Sys2Proof.Machine Sys2Proof.Statements Sys2Proof.Config

/-! ### Reset and the port -/

/-- R33, R34: after reset no unit is seeded and no state word has a value. -/
def Obligations.ResetLeavesNoUnitSeededAndNoWord : Prop :=
  ∀ f w i, State.reset.isSeeded f w i = false ∧ ∀ j k, State.reset.word? f w i j k = none

/-- R160: the reset event, at any state. -/
def Obligations.ResetEventClearsEveryUnit : Prop :=
  ∀ (s : State) (rest : List Input), s.inputs = .reset :: rest →
    ∃ t, step s = .next t ∧
      (∀ f w i, t.isSeeded f w i = false ∧ ∀ j k, t.word? f w i j k = none) ∧
      t.responses = s.responses ∧ t.params = s.params ∧ t.inputs = rest ∧ t.draws = s.draws

/-- R161: a request in flight at a reset "has either been performed in whole or not at all"; both outcomes,
whichever the draw, leave the same block, every unit unseeded and no response given. -/
def Obligations.ResetInFlightLeavesTheSameBlockEitherWay : Prop :=
  ∀ (s : State) (r : Request),
    (∃ t, resetInFlight true r s = .next t ∧ resetInFlight false r s = .next t ∧
      (∀ f w i, t.isSeeded f w i = false ∧ ∀ j k, t.word? f w i j k = none) ∧
      t.responses = s.responses ∧ t.params = s.params ∧ t.inputs = s.inputs) ∧
    ∀ rest, s.inputs = .resetInFlight r :: rest →
      step s =
        resetInFlight (inFlightPerformed s.draws) r
          { s with inputs := rest, draws := s.draws + 1 }

/-- A step runs the decoded command: when the oldest input is a request whose word is a command, the step is
that command's `exec`, at the state with the request taken from the port (R64). -/
def Obligations.StepRunsTheDecodedCommand : Prop :=
  ∀ (s : State) (r : Request) (rest : List Input) (c : Instr),
    s.inputs = .request r :: rest → decode r = .ok c →
      step s = exec c { s with inputs := rest }

/-- The MODEL's choice (log 2, deduced from R162, "it waits for the first request"): with nothing on the
port a step changes nothing. -/
def Obligations.StepWithNothingOnThePortChangesNothing : Prop :=
  ∀ s : State, s.inputs = [] → step s = .next s

/-- R55 and R163: each request gets exactly one response, and the block answers every request. -/
def Obligations.EveryRequestGetsExactlyOneResponse : Prop :=
  ∀ (s : State) (r : Request) (rest : List Input), s.inputs = .request r :: rest →
    ∃ t a, step s = .next t ∧ t.inputs = rest ∧ t.responses = s.responses ++ [a]

/-- R48: requests are performed in the order they arrive, and response n answers request n: after n steps
the block stands before request n with exactly the first n responses given, and its next step gives the
n-th. -/
def Obligations.QueuedRequestsAreAnsweredInOrder : Prop :=
  ∀ (rs : List Request) (rest : List Input) (s : State), s.inputs = rs.map .request ++ rest →
    ∃ as : List Response, as.length = rs.length ∧
      ∀ n ≤ rs.length, ∃ u, core.run n s = .next u ∧
        u.inputs = (rs.drop n).map .request ++ rest ∧ u.responses = s.responses ++ as.take n

/-- R140, R163: no step stops. -/
def Obligations.NoStepEverStops : Prop :=
  ∀ s : State, ∃ t, step s = .next t

/-! ### Decoding and encoding -/

/-- R64, the whole procedure on the fields of the command word: the checks in the order written, the first
one that fails deciding the status, and behind them the command of that operation, family, width and
instances, which answers OK. -/
def Obligations.StepFollowsTheProcedure : Prop :=
  ∀ (s : State) (c : CommandWord) (d : List Word) (rest : List Input),
    s.inputs = .request ⟨c, d⟩ :: rest →
    ((c.extractLsb 31 16).toNat ≠ 0 ∨ 4 ≤ (c.extractLsb 2 0).toNat ∨ 5 ≤ (c.extractLsb 5 3).toNat ∨
        ((c.extractLsb 2 0).toNat ≠ 3 ∧ (c.extractLsb 15 12).toNat ≠ 0) →
      step s = .next (raised { s with inputs := rest } .errIllegal)) ∧
    ∀ (op : Op) (f : Family) (w : Width) (i i2 : Inst),
      (c.extractLsb 31 16).toNat = 0 → opCode op = (c.extractLsb 2 0).toNat →
      famCode f = (c.extractLsb 5 3).toNat → w.lanes = 2 ^ (c.extractLsb 7 6).toNat →
      i.val = (c.extractLsb 11 8).toNat → i2.val = (c.extractLsb 15 12).toNat →
      (op ≠ .eq → i2 = 0) →
      (widthPresent s.params w = false ∨ instanceCount s.params ≤ i.val ∨
          (op = .eq ∧ instanceCount s.params ≤ i2.val) →
        step s = .next (raised { s with inputs := rest } .errAbsent)) ∧
      (widthPresent s.params w = true → i.val < instanceCount s.params →
        (op = .eq → i2.val < instanceCount s.params) →
        (d.length ≠ (if op = .load then f.wordCount * w.lanes else 0) →
          step s = .next (raised { s with inputs := rest } .errLength)) ∧
        (d.length = (if op = .load then f.wordCount * w.lanes else 0) →
          (op ≠ .load → (s.isSeeded f w i = false ∨ (op = .eq ∧ s.isSeeded f w i2 = false)) →
            step s = .next (raised { s with inputs := rest } .errUnseeded)) ∧
          ((op ≠ .load → s.isSeeded f w i = true) → (op = .eq → s.isSeeded f w i2 = true) →
            ∃ t a, step s = exec (.ofFields op f w i i2 d) { s with inputs := rest } ∧
              step s = .next t ∧ AnswersOk s t a)))

/-- Some words written out from R68 and from the vectors of 95_test_vectors.md (a sanity statement). -/
def Obligations.WrittenOutWordsDecode : Prop :=
  decode ⟨0b0000_0000_0000_0000_0000_0000_00_000_000, [0]⟩ = .ok (.loadSs .w1 0 [0]) ∧
  decode ⟨0b0000_0000_0000_0000_0000_0001_10_001_001, []⟩ = .ok (.nextXs64 .w4 1 []) ∧
  decode ⟨0b0000_0000_0000_0000_0000_0000_01_010_010, []⟩ = .ok (.readXs128p .w2 0 []) ∧
  decode ⟨0b0000_0000_0000_0000_0000_0000_01_011_001, []⟩ = .ok (.nextXrs128p .w2 0 []) ∧
  decode ⟨0b0000_0000_0000_0000_0001_0000_00_001_011, []⟩ = .ok (.eqXs64 .w1 0 1 []) ∧
  decode ⟨0b0000_0000_0000_0000_0000_0000_10_100_001, []⟩ = .ok (.nextXsh256pp .w4 0 [])

/-- The opcode map of 30_encoding.md §5, which the spec marks as derived from R56 to R60: its words, with
WC, INST and (for EQ) INST2 put in, decode to their commands, and no other word is a command: "Any other
word is illegal". -/
def Obligations.DecoderAcceptsExactlyTheOpcodeMap : Prop :=
  (∀ (op : Op) (f : Family) (w : Width) (i i2 : Inst) (d : List Word), (op ≠ .eq → i2 = 0) →
    decode ⟨commandWord (mapWord op f) w i i2, d⟩ = .ok (.ofFields op f w i i2 d)) ∧
  (∀ (c : CommandWord) (d : List Word),
    (∃ x, decode ⟨c, d⟩ = .ok x) ↔
      (∃ op f, op ≠ .eq ∧ c &&& 0xFFFFF03F = mapWord op f) ∨
        (∃ f, c &&& 0xFFFF003F = mapWord .eq f))

/-- R61, R66: every reserved value gets ERR_ILLEGAL and changes nothing, whatever data the request carries. -/
def Obligations.ReservedEncodingsAnswerErrIllegal : Prop :=
  ∀ (s : State) (c : CommandWord) (d : List Word) (rest : List Input),
    s.inputs = .request ⟨c, d⟩ :: rest →
    ((c.extractLsb 31 16).toNat ≠ 0 ∨ 4 ≤ (c.extractLsb 2 0).toNat ∨ 5 ≤ (c.extractLsb 5 3).toNat ∨
      ((c.extractLsb 15 12).toNat ≠ 0 ∧ (c.extractLsb 2 0).toNat ≠ 3)) →
    step s = .next (raised { s with inputs := rest } .errIllegal)

/-- R59, R60: every WC names a width and an EQ may name any two instances (INST2 = INST too); W is 2^WC, the
unit addressed is (FAM, W, INST) with INST an unsigned number, EQ also names (FAM, W, INST2), and INST2 is 0
outside EQ. -/
def Obligations.DecodedFieldsAreThoseOfTheWord : Prop :=
  (∀ (c : CommandWord) (d : List Word), (c.extractLsb 31 16).toNat = 0 →
    (c.extractLsb 2 0).toNat = 3 → (c.extractLsb 5 3).toNat < 5 → ∃ x, decode ⟨c, d⟩ = .ok x) ∧
  (∀ (c : CommandWord) (d : List Word) (x : Instr), decode ⟨c, d⟩ = .ok x →
    opCode x.op = (c.extractLsb 2 0).toNat ∧ famCode x.family = (c.extractLsb 5 3).toNat ∧
    x.width.lanes = 2 ^ (c.extractLsb 7 6).toNat ∧
    x.inst.val = (c.extractLsb 11 8).toNat ∧
    (x.op = .eq → x.inst2.val = (c.extractLsb 15 12).toNat) ∧
    (x.op ≠ .eq → (c.extractLsb 15 12).toNat = 0) ∧ x.data = d)

/-- Decode and encode agree, for every command, with every operand at every value. -/
def Obligations.DecodeOfEncodeIsTheCommand : Prop :=
  ∀ c : Instr, decode (encode c) = .ok c

/-- Each command has one word: what decodes to a command is its encoding. -/
def Obligations.EncodeOfDecodeIsTheRequest : Prop :=
  ∀ (r : Request) (c : Instr), decode r = .ok c → encode c = r

/-- Derived: on a byte bus byte b of a data word is bits [8b+7 : 8b], and the command word travels the same
way (R43); that a request is its command word's four bytes and then eight for each data word is the MODEL's
layout (log 13, DEDUCED). -/
def Obligations.BusBytesAreLittleEndian : Prop :=
  (∀ x : Word, (bytesOf 8 x).length = 8 ∧
    ∀ b < 8, (bytesOf 8 x)[b]? = some (x.extractLsb' (8 * b) 8)) ∧
  ∀ (c : CommandWord) (d : List Word),
    (bytesOfRequest ⟨c, d⟩).length = 4 + 8 * d.length ∧
    (∀ b < 4, (bytesOfRequest ⟨c, d⟩)[b]? = some (c.extractLsb' (8 * b) 8)) ∧
    ∀ (n : Nat) (x : Word), d[n]? = some x → ∀ b < 8,
      (bytesOfRequest ⟨c, d⟩)[4 + 8 * n + b]? = some (x.extractLsb' (8 * b) 8)

/-- Through the bytes of a bus too, in the MODEL's layout of a request (log 13), decode of encode is the
command. -/
def Obligations.DecodeOfEncodedBytesIsTheCommand : Prop :=
  ∀ c : Instr, decodeBytes (encodeBytes c) = .ok c

/-! ### LOAD, family by family -/

/-- R80, LOAD.SS: encoding, checks, effect. -/
def Obligations.LoadSsConstructsTheUnit : Prop :=
  ∀ (w : Width) (i : Inst) (d : List Word),
    decode ⟨commandWord 0x00000000 w i 0, d⟩ = .ok (.loadSs w i d) ∧
      LoadChecks (.loadSs w i d) w.lanes ∧ LoadCompletes (.loadSs w i d) .ss w i d

/-- R90, LOAD.XS64: encoding, checks, effect. -/
def Obligations.LoadXs64ConstructsTheUnit : Prop :=
  ∀ (w : Width) (i : Inst) (d : List Word),
    decode ⟨commandWord 0x00000008 w i 0, d⟩ = .ok (.loadXs64 w i d) ∧
      LoadChecks (.loadXs64 w i d) w.lanes ∧ LoadCompletes (.loadXs64 w i d) .xs64 w i d

/-- R100, LOAD.XS128P: encoding, checks, effect. -/
def Obligations.LoadXs128pConstructsTheUnit : Prop :=
  ∀ (w : Width) (i : Inst) (d : List Word),
    decode ⟨commandWord 0x00000010 w i 0, d⟩ = .ok (.loadXs128p w i d) ∧
      LoadChecks (.loadXs128p w i d) (2 * w.lanes) ∧
      LoadCompletes (.loadXs128p w i d) .xs128p w i d

/-- R110, LOAD.XRS128P: encoding, checks, effect. -/
def Obligations.LoadXrs128pConstructsTheUnit : Prop :=
  ∀ (w : Width) (i : Inst) (d : List Word),
    decode ⟨commandWord 0x00000018 w i 0, d⟩ = .ok (.loadXrs128p w i d) ∧
      LoadChecks (.loadXrs128p w i d) (2 * w.lanes) ∧
      LoadCompletes (.loadXrs128p w i d) .xrs128p w i d

/-- R120, LOAD.XSH256PP: encoding, checks, effect, at every width alike (R125). -/
def Obligations.LoadXsh256ppConstructsTheUnit : Prop :=
  ∀ (w : Width) (i : Inst) (d : List Word),
    decode ⟨commandWord 0x00000020 w i 0, d⟩ = .ok (.loadXsh256pp w i d) ∧
      LoadChecks (.loadXsh256pp w i d) (4 * w.lanes) ∧
      LoadCompletes (.loadXsh256pp w i d) .xsh256pp w i d

/-! ### NEXT, family by family -/

/-- R81, NEXT.SS, in the six splitmix64 constants by name (their values: ConstantsAreTheTables, log 9):
encoding, checks, effect. -/
def Obligations.NextSsStepsEveryLane : Prop :=
  ∀ (w : Width) (i : Inst) (d : List Word),
    decode ⟨commandWord 0x00000001 w i 0, d⟩ = .ok (.nextSs w i d) ∧
      ReadingChecks (.nextSs w i d) .ss [i] ∧
      NextCompletes (.nextSs w i []) .ss w i (fun old =>
        let s := old.getD 0 0 + smInc
        let z1 := (s ^^^ (s >>> smS1)) * smM1
        let z2 := (z1 ^^^ (z1 >>> smS2)) * smM2
        ([s], z2 ^^^ (z2 >>> smS3)))

/-- R91, NEXT.XS64: encoding, checks, effect; the output is the new state. -/
def Obligations.NextXs64StepsEveryLane : Prop :=
  ∀ (w : Width) (i : Inst) (d : List Word),
    decode ⟨commandWord 0x00000009 w i 0, d⟩ = .ok (.nextXs64 w i d) ∧
      ReadingChecks (.nextXs64 w i d) .xs64 [i] ∧
      NextCompletes (.nextXs64 w i []) .xs64 w i (fun old =>
        let x0 := old.getD 0 0
        let x1 := x0 ^^^ (x0 <<< xs64A)
        let x2 := x1 ^^^ (x1 >>> xs64B)
        let x3 := x2 ^^^ (x2 <<< xs64C)
        ([x3], x3))

/-- R101, NEXT.XS128P: encoding, checks, effect; the output is the sum of the two new words. -/
def Obligations.NextXs128pStepsEveryLane : Prop :=
  ∀ (w : Width) (i : Inst) (d : List Word),
    decode ⟨commandWord 0x00000011 w i 0, d⟩ = .ok (.nextXs128p w i d) ∧
      ReadingChecks (.nextXs128p w i d) .xs128p [i] ∧
      NextCompletes (.nextXs128p w i []) .xs128p w i (fun old =>
        let s1 := old.getD 0 0 ^^^ (old.getD 0 0 <<< xs128pA)
        let s0 := old.getD 1 0
        let n1 := s1 ^^^ s0 ^^^ (s1 >>> xs128pB) ^^^ (s0 >>> xs128pC)
        ([s0, n1], s0 + n1))

/-- R111, NEXT.XRS128P: encoding, checks, effect; the output is the sum of the two old words. -/
def Obligations.NextXrs128pStepsEveryLane : Prop :=
  ∀ (w : Width) (i : Inst) (d : List Word),
    decode ⟨commandWord 0x00000019 w i 0, d⟩ = .ok (.nextXrs128p w i d) ∧
      ReadingChecks (.nextXrs128p w i d) .xrs128p [i] ∧
      NextCompletes (.nextXrs128p w i []) .xrs128p w i (fun old =>
        let s0 := old.getD 0 0
        let s1 := old.getD 1 0 ^^^ s0
        ([((s0 <<< xrsA) ||| (s0 >>> (64 - xrsA))) ^^^ s1 ^^^ (s1 <<< xrsB),
          (s1 <<< xrsC) ||| (s1 >>> (64 - xrsC))], s0 + old.getD 1 0))

/-- R121 and R122, NEXT.XSH256PP: encoding, checks, effect; the six statements in the order written. -/
def Obligations.NextXsh256ppStepsEveryLane : Prop :=
  ∀ (w : Width) (i : Inst) (d : List Word),
    decode ⟨commandWord 0x00000021 w i 0, d⟩ = .ok (.nextXsh256pp w i d) ∧
      ReadingChecks (.nextXsh256pp w i d) .xsh256pp [i] ∧
      NextCompletes (.nextXsh256pp w i []) .xsh256pp w i (fun old =>
        let w0 := old.getD 0 0
        let w1 := old.getD 1 0
        let w2 := old.getD 2 0
        let w3 := old.getD 3 0
        let sum := w0 + w1
        let out := ((sum <<< xshR) ||| (sum >>> (64 - xshR))) + w0
        let t := w1 <<< xshT
        let w2a := w2 ^^^ w0
        let w3a := w3 ^^^ w1
        let w1a := w1 ^^^ w2a
        let w0a := w0 ^^^ w3a
        ([w0a, w1a, w2a ^^^ t, (w3a <<< xshQ) ||| (w3a >>> (64 - xshQ))], out))

/-! ### READ and EQ, all families -/

/-- R130, READ (`readSs`, `readXs64`, `readXs128p`, `readXrs128p`, `readXsh256pp`): encoding, checks, and
every state word of the unit in word-major order, with nothing written. -/
def Obligations.ReadReturnsEveryStateWord : Prop :=
  ∀ (f : Family) (w : Width) (i : Inst) (d : List Word),
    decode ⟨commandWord (BitVec.ofNat 32 (2 + 8 * famCode f)) w i 0, d⟩ = .ok (.readOf f w i d) ∧
      ReadingChecks (.readOf f w i d) f [i] ∧
      ∀ s : State, s.WellFormed → unitsExist s.params w [i] = true → s.isSeeded f w i = true →
        ∃ r : List Word,
          exec (.readOf f w i []) s = .next { s with responses := s.responses ++ [⟨.ok, r⟩] } ∧
          r.length = f.wordCount * w.lanes ∧
          ∀ j < f.wordCount, ∀ k < w.lanes,
            ∃ x, s.word? f w i j k = some x ∧ r[j * w.lanes + k]? = some x

/-- R131, EQ (`eqSs`, `eqXs64`, `eqXs128p`, `eqXrs128p`, `eqXsh256pp`): encoding, checks, and one word, 1
exactly when every state word of the two units matches and 0 otherwise, with nothing written. -/
def Obligations.EqComparesEveryStateWord : Prop :=
  ∀ (f : Family) (w : Width) (i i2 : Inst) (d : List Word),
    decode ⟨commandWord (BitVec.ofNat 32 (3 + 8 * famCode f)) w i i2, d⟩ =
        .ok (.eqOf f w i i2 d) ∧
      ReadingChecks (.eqOf f w i i2 d) f [i, i2] ∧
      ∀ s : State, s.WellFormed → unitsExist s.params w [i, i2] = true →
        s.isSeeded f w i = true → s.isSeeded f w i2 = true →
        ∃ r : Word,
          exec (.eqOf f w i i2 []) s = .next { s with responses := s.responses ++ [⟨.ok, [r]⟩] } ∧
          ((∀ j < f.wordCount, ∀ k < w.lanes, s.word? f w i j k = s.word? f w i2 j k) → r = 1) ∧
          (¬(∀ j < f.wordCount, ∀ k < w.lanes, s.word? f w i j k = s.word? f w i2 j k) → r = 0)

/-! ### Errors -/

/-- R143, which the spec marks as derived from R64: the status is the first failing check in the order
ERR_ILLEGAL, ERR_ABSENT, ERR_LENGTH, ERR_UNSEEDED, and OK when none fails. -/
def Obligations.StatusIsTheFirstFailingCheck : Prop :=
  ∀ (s : State) (r : Request) (rest : List Input), s.inputs = .request r :: rest →
    (∀ e, decode r = .error e → step s = .next (raised { s with inputs := rest } .errIllegal)) ∧
    ∀ c, decode r = .ok c →
      (unitsExist s.params c.width c.insts = false →
        step s = .next (raised { s with inputs := rest } .errAbsent)) ∧
      (unitsExist s.params c.width c.insts = true → r.data.length ≠ c.dataCount →
        step s = .next (raised { s with inputs := rest } .errLength)) ∧
      (unitsExist s.params c.width c.insts = true → r.data.length = c.dataCount → c.op ≠ .load →
        (∃ i ∈ c.insts, s.isSeeded c.family c.width i = false) →
        step s = .next (raised { s with inputs := rest } .errUnseeded)) ∧
      (unitsExist s.params c.width c.insts = true → r.data.length = c.dataCount →
        (c.op = .load ∨ ∀ i ∈ c.insts, s.isSeeded c.family c.width i = true) →
        ∃ t d, step s = .next t ∧ AnswersOk s t d)

/-- R142: a response other than OK comes from a request that wrote no state: the block after it is as
before, but for the request taken and the response given. -/
def Obligations.ErrorsChangeNothing : Prop :=
  ∀ (s t : State) (r : Request) (rest : List Input) (st : Status) (d : List Word),
    s.inputs = .request r :: rest → step s = .next t →
    t.responses = s.responses ++ [⟨st, d⟩] → st ≠ .ok →
    t = raised { s with inputs := rest } st

/-- R152: a command that names an absent width or instance answers ERR_ABSENT, and what a present unit does
depends on no other parameter. -/
def Obligations.AbsentUnitsAnswerErrAbsentAndPresentOnesIgnoreTheRest : Prop :=
  (∀ (c : Instr) (s : State),
    (widthPresent s.params c.width = false ∨ ∃ i ∈ c.insts, instanceCount s.params ≤ i.val) →
      exec c s = .next (raised s .errAbsent)) ∧
  ∀ (c : Instr) (s : State) (p : Params),
    unitsExist s.params c.width c.insts = true → unitsExist p c.width c.insts = true →
      ∃ t, exec c s = .next t ∧ exec c { s with params := p } = .next { t with params := p }

/-- R63: the data lengths of request and response. -/
def Obligations.DataLengthsAreFixed : Prop :=
  ∀ (c : Instr) (s : State), s.WellFormed → unitsExist s.params c.width c.insts = true →
    (c.data.length ≠ (if c.op = .load then c.family.wordCount * c.width.lanes else 0) →
      exec c s = .next (raised s .errLength)) ∧
    ∀ t a, exec c s = .next t → t.responses = s.responses ++ [a] →
      (a.status ≠ .ok → a.data = []) ∧
      (a.status = .ok →
        a.data.length =
          match c.op with
          | .load => 0
          | .next => c.width.lanes
          | .read => c.family.wordCount * c.width.lanes
          | .eq => 1)

/-- R141: the codes of the five statuses. -/
def Obligations.StatusCodesAreTheTables : Prop :=
  Status.ok.code = 0x00 ∧ Status.errIllegal.code = 0x01 ∧ Status.errAbsent.code = 0x02 ∧
    Status.errLength.code = 0x03 ∧ Status.errUnseeded.code = 0x04

/-! ### Frames and whole-machine rules -/

/-- R29: a command writes only the unit it addresses, and READ and EQ write none; no command changes the
parameters or what is waiting on the port, and each gives one response. -/
def Obligations.CommandsWriteOnlyTheirOwnUnit : Prop :=
  ∀ (c : Instr) (s t : State), exec c s = .next t →
    OnlyUnit c.family c.width c.inst s t ∧
    ((c.op = .read ∨ c.op = .eq) → ∀ f w i, t.unit f w i = s.unit f w i) ∧
    ∃ a, t.responses = s.responses ++ [a]

/-- R23: reset clears SEEDED(u), a LOAD of u answered OK sets it, nothing else writes it, and NEXT, READ and
EQ answer ERR_UNSEEDED when it is 0. -/
def Obligations.SeededIsWrittenOnlyByLoadAndReset : Prop :=
  ∀ (s t : State) (f : Family) (w : Width) (i : Inst), step s = .next t →
    (s.isSeeded f w i = false → t.isSeeded f w i = true →
      ∃ r rest d, s.inputs = .request r :: rest ∧ decode r = .ok (.loadOf f w i d) ∧
        AnswersOk s t []) ∧
    (s.isSeeded f w i = true → t.isSeeded f w i = false →
      ∃ rest, s.inputs = .reset :: rest ∨ ∃ r, s.inputs = .resetInFlight r :: rest) ∧
    (∀ rest r, s.inputs = .reset :: rest ∨ s.inputs = .resetInFlight r :: rest →
      t.isSeeded f w i = false) ∧
    (∀ r rest d, s.inputs = .request r :: rest → decode r = .ok (.loadOf f w i d) →
      AnswersOk s t [] → t.isSeeded f w i = true) ∧
    (∀ r rest c, s.inputs = .request r :: rest → decode r = .ok c → c.op ≠ .load →
      c.family = f → c.width = w → i ∈ c.insts → unitsExist s.params w c.insts = true →
      c.data = [] → s.isSeeded f w i = false →
      t.responses = s.responses ++ [⟨.errUnseeded, []⟩])

/-- R28: "Widths and instance counts are fixed when the block is built; software cannot change them". -/
def Obligations.NoStepChangesTheParameters : Prop :=
  ∀ s t : State, step s = .next t → t.params = s.params

/-- R46, which the spec marks as derived from R45 and R29: LOAD, READ and EQ may be repeated: the same
answer again, and no unit changes the second time. -/
def Obligations.RepeatingAnythingButNextChangesNothingMore : Prop :=
  ∀ (c : Instr) (s t : State), c.op ≠ .next → exec c s = .next t →
    ∃ a u, t.responses = s.responses ++ [a] ∧ exec c t = .next u ∧
      u.responses = t.responses ++ [a] ∧ ∀ f w i, u.unit f w i = t.unit f w i

/-- R167 (which the spec marks as derived) with R32: a response, and what an OK command leaves in its unit,
depends on nothing but the parameters, the SEEDED flags of the units the command names and, where they are
seeded, their words. -/
def Obligations.AnswersDependOnlyOnTheNamedSeededUnits : Prop :=
  ∀ (c : Instr) (s s' : State), s.params = s'.params →
    (∀ i ∈ c.insts, s.isSeeded c.family c.width i = s'.isSeeded c.family c.width i ∧
      (s.isSeeded c.family c.width i = true →
        s.unit c.family c.width i = s'.unit c.family c.width i)) →
    ∃ t t' a, exec c s = .next t ∧ exec c s' = .next t' ∧
      t.responses = s.responses ++ [a] ∧ t'.responses = s'.responses ++ [a] ∧
      (a.status = .ok →
        t.unit c.family c.width c.inst = t'.unit c.family c.width c.inst)

/-! ### Invariants -/

/-- The canonical form holds at reset. -/
def Obligations.ResetIsWellFormed : Prop := State.reset.WellFormed

/-- Every step, from any state in canonical form, leaves one in canonical form. -/
def Obligations.EveryStepKeepsTheCanonicalForm : Prop :=
  ∀ s t : State, s.WellFormed → step s = .next t → t.WellFormed

/-- R32 with R21: in canonical form a unit is seeded exactly when its m*W words have values, and no unit
that does not exist is seeded (R20). -/
def Obligations.SeededExactlyWhenTheWordsHaveValues : Prop :=
  ∀ (s : State), s.WellFormed → ∀ (f : Family) (w : Width) (i : Inst),
    (s.isSeeded f w i = true → unitsExist s.params w [i] = true) ∧
    ∀ j k, (s.word? f w i j k).isSome = true ↔
      s.isSeeded f w i = true ∧ j < f.wordCount ∧ k < w.lanes

/-- R22: lane k of packed register j is its bits [64k+63 : 64k]. -/
def Obligations.LanesOfAPackedRegister : Prop :=
  ∀ (s : State), s.WellFormed → ∀ (f : Family) (w : Width) (i : Inst),
    s.isSeeded f w i = true → ∀ j < f.wordCount, ∀ k < w.lanes,
      s.word? f w i j k = some ((s.packedRegister f w i j).extractLsb' (64 * k) 64)

/-! ### Laws of the generators -/

/-- R10: the constants' values; of the six splitmix64 ones the spec says that they are from general knowledge
and not in its source (log 9). -/
def Obligations.ConstantsAreTheTables : Prop :=
  (xs64A, xs64B, xs64C) = (13, 17, 5) ∧ (xs128pA, xs128pB, xs128pC) = (23, 26, 17) ∧
    (xrsA, xrsB, xrsC) = (24, 16, 37) ∧ (xshR, xshJ, xshT, xshQ) = (23, 1, 17, 45) ∧
    (smInc, smS1, smM1, smS2, smM2, smS3) =
      (0x9E3779B97F4A7C15, 30, 0xBF58476D1CE4E5B9, 27, 0x94D049BB133111EB, 31)

/-- R14: the rotate is a circular shift, `(x<<k)|(x>>(64-k))`: bit b of the result is bit b - k of the word,
round the 64. -/
def Obligations.RotateIsCircular : Prop :=
  ∀ (x : Word) (k : Nat), 1 ≤ k → k ≤ 63 → rotl x k = x <<< k ||| x >>> (64 - k) ∧
    ∀ b < 64, (rotl x k).getLsbD b = x.getLsbD ((b + (64 - k)) % 64)

/-- R82, which the spec marks as derived from R81: after n NEXTs a SeedSpreader lane holds s0 + n * SM_INC;
that sequence has period exactly 2^64 and visits every value. -/
def Obligations.SeedSpreaderStateLaw : Prop :=
  (∀ (n : Nat) (s : State) (w : Width) (i : Inst), s.WellFormed →
    unitsExist s.params w [i] = true → s.isSeeded .ss w i = true →
    ∃ t, execAll (List.replicate n (.nextSs w i [])) s = .next t ∧
      ∀ k < w.lanes, ∃ x, s.word? .ss w i 0 k = some x ∧
        t.word? .ss w i 0 k = some (x + BitVec.ofNat 64 n * smInc)) ∧
  (∀ (x : Word) (n : Nat), x + BitVec.ofNat 64 n * smInc = x ↔ 2 ^ 64 ∣ n) ∧
  ∀ x v : Word, ∃ n < 2 ^ 64, x + BitVec.ofNat 64 n * smInc = v

/-- Derived: an all-zero lane of an xorshift-family unit stays all-zero under NEXT and outputs 0. R92 says so
of XS64; of the other families R102, R112 and R123 do, which the spec marks as derived from the NEXT rules. -/
def Obligations.ZeroXorshiftLanesStayZero : Prop :=
  ∀ (s : State) (f : Family) (w : Width) (i : Inst), f ≠ .ss → s.WellFormed →
    unitsExist s.params w [i] = true → s.isSeeded f w i = true →
    ∃ t out, exec (.nextOf f w i []) s = .next t ∧ AnswersOk s t out ∧
      ∀ k < w.lanes, (∀ j < f.wordCount, s.word? f w i j k = some 0) →
        (∀ j < f.wordCount, t.word? f w i j k = some 0) ∧ out[k]? = some 0

/-- R151: a LOAD of all-zero words into an xorshift-family unit answers OK, and the unit stays zero and
outputs zero for any number of NEXTs. -/
def Obligations.ZeroSeedsAreAcceptedAndStayZero : Prop :=
  ∀ (n : Nat) (s : State) (f : Family) (w : Width) (i : Inst), f ≠ .ss →
    unitsExist s.params w [i] = true →
    ∃ t, execAll
        (.loadOf f w i (List.replicate (f.wordCount * w.lanes) 0) ::
          List.replicate n (.nextOf f w i [])) s = .next t ∧
      t.responses =
        s.responses ++ ⟨.ok, []⟩ :: List.replicate n ⟨.ok, List.replicate w.lanes 0⟩ ∧
      ∀ j < f.wordCount, ∀ k < w.lanes, t.word? f w i j k = some 0

/-- R93, which the spec marks as derived from R91: each of the three xor-shift steps is a bijection, and a
non-zero XS64 lane stays non-zero. -/
def Obligations.NonZeroXs64LanesStayNonZero : Prop :=
  (Function.Bijective (fun x : Word => x ^^^ (x <<< xs64A)) ∧
    Function.Bijective (fun x : Word => x ^^^ (x >>> xs64B)) ∧
    Function.Bijective (fun x : Word => x ^^^ (x <<< xs64C))) ∧
  ∀ (s t : State) (w : Width) (i : Inst) (k : Nat) (x : Word),
    exec (.nextXs64 w i []) s = .next t → s.word? .xs64 w i 0 k = some x → x ≠ 0 →
      ∃ y, t.word? .xs64 w i 0 k = some y ∧ y ≠ 0

/-- R103, which the spec marks as derived from R101: the XS128P state map is invertible, a lane that is not
all-zero never becomes all-zero, and its output can still be 0. -/
def Obligations.NonZeroXs128pLanesStayNonZero : Prop :=
  Function.Bijective (fun y : Word => y ^^^ (y >>> xs128pB)) ∧
  Function.Bijective (fun y : Word => y ^^^ (y <<< xs128pA)) ∧
  Function.Injective (fun l : Lane2 => (xs128pNext l).1) ∧
  (∀ (s t : State) (w : Width) (i : Inst) (k : Nat) (x0 x1 : Word),
    exec (.nextXs128p w i []) s = .next t → s.word? .xs128p w i 0 k = some x0 →
    s.word? .xs128p w i 1 k = some x1 → (x0, x1) ≠ (0, 0) →
      ∃ y0 y1, t.word? .xs128p w i 0 k = some y0 ∧ t.word? .xs128p w i 1 k = some y1 ∧
        (y0, y1) ≠ (0, 0)) ∧
  xs128pNext ⟨0x1C007FC7FF000FFE, 1⟩ = (⟨1, 0xFFFFFFFFFFFFFFFF⟩, 0)

/-- R113, which the spec marks as derived from R111: the XRS128P state map has the inverse the rule writes,
and a lane that is not all-zero never becomes all-zero. -/
def Obligations.NonZeroXrs128pLanesStayNonZero : Prop :=
  (∀ l : Lane2,
    let n := (xrs128pNext l).1
    let s1 := rotr n.w1 xrsC
    let s0 := rotr (n.w0 ^^^ s1 ^^^ (s1 <<< xrsB)) xrsA
    (⟨s0, s1 ^^^ s0⟩ : Lane2) = l) ∧
  ∀ (s t : State) (w : Width) (i : Inst) (k : Nat) (x0 x1 : Word),
    exec (.nextXrs128p w i []) s = .next t → s.word? .xrs128p w i 0 k = some x0 →
    s.word? .xrs128p w i 1 k = some x1 → (x0, x1) ≠ (0, 0) →
      ∃ y0 y1, t.word? .xrs128p w i 0 k = some y0 ∧ t.word? .xrs128p w i 1 k = some y1 ∧
        (y0, y1) ≠ (0, 0)

/-- R124, which the spec marks as derived from R121: the XSH256PP state map is one-to-one, with the recovery
the rule describes, and a lane that is not all-zero never becomes all-zero. -/
def Obligations.NonZeroXsh256ppLanesStayNonZero : Prop :=
  Function.Bijective (fun y : Word => y ^^^ (y <<< xshT)) ∧
  (∀ l : Lane4,
    let n := (xsh256ppNext l).1
    l.w0 = n.w0 ^^^ rotr n.w3 xshQ ∧
    ∃ w2a : Word, w2a ^^^ (w2a <<< xshT) = n.w2 ^^^ (n.w1 <<< xshT) ∧ l.w1 = n.w1 ^^^ w2a ∧
      l.w2 = w2a ^^^ l.w0 ∧ l.w3 = rotr n.w3 xshQ ^^^ l.w1) ∧
  ∀ (s t : State) (w : Width) (i : Inst) (k : Nat) (l : Lane4),
    exec (.nextXsh256pp w i []) s = .next t →
    (∀ j < 4, s.word? .xsh256pp w i j k = l.words[j]?) → l ≠ ⟨0, 0, 0, 0⟩ →
      ∃ m : Lane4, (∀ j < 4, t.word? .xsh256pp w i j k = m.words[j]?) ∧ m ≠ ⟨0, 0, 0, 0⟩

/-! ### Laws over sequences of commands -/

/-- R30: an XS64 output can be read back: READ after NEXT returns that NEXT's outputs. -/
def Obligations.ReadAfterNextXs64ReturnsTheOutputs : Prop :=
  ∀ (s : State) (w : Width) (i : Inst), unitsExist s.params w [i] = true →
    s.isSeeded .xs64 w i = true →
    ∃ t out, execAll [.nextXs64 w i [], .readXs64 w i []] s = .next t ∧
      t.responses = s.responses ++ [⟨.ok, out⟩, ⟨.ok, out⟩]

/-- R132 (which the spec marks as derived), first sentence: READ right after LOAD returns the loaded words,
in the order they were sent. -/
def Obligations.ReadAfterLoadReturnsTheLoadedWords : Prop :=
  ∀ (s : State) (f : Family) (w : Width) (i : Inst) (d : List Word),
    unitsExist s.params w [i] = true → d.length = f.wordCount * w.lanes →
    ∃ t, execAll [.loadOf f w i d, .readOf f w i []] s = .next t ∧
      t.responses = s.responses ++ [⟨.ok, []⟩, ⟨.ok, d⟩]

/-- R27: after any sequence of LOADs and NEXTs, lane k of a unit of any width holds what a scalar unit of the
family holds after the same sequence with lane k's words only, and every output of lane k on the way was the
scalar unit's. -/
def Obligations.LaneEquivalence : Prop :=
  ∀ (f : Family) (w : Width) (i i' : Inst) (k : Nat) (d : List Word) (script : List UnitCommand)
    (s s' : State), unitsExist s.params w [i] = true → unitsExist s'.params .w1 [i'] = true →
    k < w.lanes → (∀ c ∈ UnitCommand.load d :: script, c.LengthOk f w) →
    ∃ t t' as as',
      execAll ((UnitCommand.load d :: script).map (UnitCommand.wide f w i)) s = .next t ∧
      execAll ((UnitCommand.load d :: script).map (UnitCommand.scalar f w i' k)) s' = .next t' ∧
      (∀ j, t.word? f w i j k = t'.word? f .w1 i' j 0) ∧
      t.responses = s.responses ++ as ∧ t'.responses = s'.responses ++ as' ∧
      as.length = as'.length ∧
      ∀ (n : Nat) (a a' : Response), as[n]? = some a → as'[n]? = some a' →
        a.status = .ok ∧ a'.status = .ok ∧ a.data[k]? = a'.data[0]?

/-- R133, which the spec marks as derived from R131: two units of one family and width, loaded with the same
words and given the same number of NEXTs in any interleaving, compare equal. -/
def Obligations.EquallySteppedUnitsCompareEqual : Prop :=
  ∀ (s : State) (f : Family) (w : Width) (i i2 : Inst) (d : List Word) (turns : List Bool),
    unitsExist s.params w [i, i2] = true → d.length = f.wordCount * w.lanes →
    turns.count true = turns.count false →
    ∃ t as,
      execAll ([.loadOf f w i d, .loadOf f w i2 d] ++
        turns.map (fun b => .nextOf f w (if b then i else i2) []) ++ [.eqOf f w i i2 []]) s =
          .next t ∧
      t.responses = s.responses ++ as ++ [⟨.ok, [1]⟩]

/-- R70: `seed` gives word j of lane k the j-th output of lane k of the SeedSpreader, whose state advances
by m steps. If a NEXT answers other than OK, the host stops: no LOAD, and the generator is unchanged. -/
def Obligations.SeedConstructsFromTheSeedSpreader : Prop :=
  ∀ (s : State) (f : SeedTarget) (w : Width) (i p : Inst), s.WellFormed →
    (unitsExist s.params w [p] = true → s.isSeeded .ss w p = true →
      unitsExist s.params w [i] = true →
      ∃ t, seed f w i p s = .next t ∧ t.isSeeded f.family w i = true ∧
        t.responses.length = s.responses.length + f.family.wordCount + 1 ∧
        ∀ k < w.lanes, ∃ x, s.word? .ss w p 0 k = some x ∧
          t.word? .ss w p 0 k = some (x + BitVec.ofNat 64 f.family.wordCount * smInc) ∧
          ∀ j < f.family.wordCount,
            t.word? f.family w i j k = some (ssMix (x + BitVec.ofNat 64 (j + 1) * smInc))) ∧
    (unitsExist s.params w [p] = true → s.isSeeded .ss w p = false →
      seed f w i p s = .next (raised s .errUnseeded)) ∧
    (unitsExist s.params w [p] = false → seed f w i p s = .next (raised s .errAbsent))

/-- R71: `loadb` is a LOAD with each value repeated W times, and puts the same seed in every lane. -/
def Obligations.LoadbPutsTheSameSeedInEveryLane : Prop :=
  ∀ (s : State) (f : Family) (w : Width) (i : Inst) (v : List Word),
    unitsExist s.params w [i] = true → v.length = f.wordCount →
    (∃ d, loadb f w i v = .loadOf f w i d ∧ d.length = f.wordCount * w.lanes ∧
      ∀ j < f.wordCount, ∀ k < w.lanes, d[j * w.lanes + k]? = v[j]?) ∧
    ∃ t, exec (loadb f w i v) s = .next t ∧ AnswersOk s t [] ∧
      ∀ j < f.wordCount, ∀ k < w.lanes, t.word? f w i j k = v[j]?
end

