-- ==== Sys2Proof/Laws/Bank.lean ====
section
/-! SUPPORT. What `Bank.store` and `Bank.unitAt` do, and that a store of a seeded unit of the right shape keeps
the canonical form. -/

namespace Sys2Proof.Machine

open Sys2Proof.Config (Params)

variable {α : Type} (b : Bank α) (w w' : Width) (i i' : Inst) (u : UnitRegs α)

theorem selector_injective (h : selector w i = selector w' i') : w = w' ∧ i = i' := by
  have hi := i.isLt
  have hi' := i'.isLt
  cases w <;> cases w' <;> simp only [selector, Width.code] at h <;>
    first
      | exact ⟨rfl, Fin.ext (by omega)⟩
      | (exfalso; omega)

/-- A read after a store to the same unit gives what was stored. -/
@[simp] theorem Bank.unitAt_store_same : Bank.unitAt (Bank.store b w i u) w i = u := by
  induction b with
  | nil => simp [Bank.store, Bank.unitAt]
  | cons e rest ih =>
    simp only [Bank.store]
    split
    · simp [Bank.unitAt]
    · next h =>
      split
      · simp [Bank.unitAt]
      · simp only [Bank.unitAt, if_neg h, ih]

/-- A store leaves every other unit alone. -/
theorem Bank.unitAt_store_other (h : ¬(w = w' ∧ i = i')) :
    Bank.unitAt (Bank.store b w i u) w' i' = Bank.unitAt b w' i' := by
  induction b with
  | nil => simp [Bank.store, Bank.unitAt, h]
  | cons e rest ih =>
    simp only [Bank.store]
    split
    · next he =>
      obtain ⟨rfl, rfl⟩ := he
      simp [Bank.unitAt, h]
    · split
      · simp [Bank.unitAt, h]
      · simp only [Bank.unitAt, ih]

/-- Storing twice to one unit is storing the second time only. -/
theorem Bank.store_store (v : UnitRegs α) :
    Bank.store (Bank.store b w i u) w i v = Bank.store b w i v := by
  induction b with
  | nil => simp [Bank.store]
  | cons e rest ih =>
    simp only [Bank.store]
    split
    · simp [Bank.store]
    · next h =>
      split
      · simp [Bank.store]
      · next h' => simp only [Bank.store, if_neg h, if_neg h', ih]

/-- An entry of a store is the stored unit or an entry from before. -/
theorem Bank.mem_store {e : Slot α} (h : e ∈ Bank.store b w i u) : e = ⟨w, i, u⟩ ∨ e ∈ b := by
  induction b with
  | nil => simpa [Bank.store] using h
  | cons a rest ih =>
    simp only [Bank.store] at h
    split at h
    · simp only [List.mem_cons] at h ⊢
      tauto
    · split at h
      · simpa using h
      · simp only [List.mem_cons] at h ⊢
        rcases h with h | h
        · exact .inr (.inl h)
        · exact (ih h).imp_right .inr

/-- Storing keeps the selectors rising. -/
theorem Bank.store_pairwise
    (h : b.Pairwise fun a e => selector a.w a.i < selector e.w e.i) :
    (Bank.store b w i u).Pairwise fun a e => selector a.w a.i < selector e.w e.i := by
  induction b with
  | nil => simp [Bank.store]
  | cons a rest ih =>
    obtain ⟨ha, hrest⟩ := List.pairwise_cons.mp h
    simp only [Bank.store]
    split
    · next he =>
      obtain ⟨rfl, rfl⟩ := he
      exact List.pairwise_cons.mpr ⟨ha, hrest⟩
    · next hne =>
      split
      · next hlt =>
        refine List.pairwise_cons.mpr ⟨fun e he => ?_, h⟩
        rcases List.mem_cons.mp he with rfl | he
        · exact hlt
        · exact hlt.trans (ha e he)
      · next hge =>
        refine List.pairwise_cons.mpr ⟨fun e he => ?_, ih hrest⟩
        rcases Bank.mem_store _ _ _ _ he with rfl | he
        · rcases Nat.lt_or_ge (selector a.w a.i) (selector w i) with hlt | hle
          · exact hlt
          · exact absurd (selector_injective _ _ _ _ (by omega)) hne
        · exact ha e he

/-- The canonical form is kept by storing a seeded unit that exists and holds W lanes. -/
theorem Bank.store_wellFormed {p : Params} (h : Bank.WellFormed p b) (hs : u.seeded = true)
    (hl : u.lanes.length = w.lanes) (he : unitsExist p w [i] = true) :
    Bank.WellFormed p (Bank.store b w i u) := by
  refine ⟨Bank.store_pairwise b w i u h.1, fun e hm => ?_⟩
  rcases Bank.mem_store _ _ _ _ hm with rfl | hm
  · exact ⟨hs, hl, he⟩
  · exact h.2 e hm

/-- A unit read from a store is as after reset, or the registers of an entry. -/
theorem Bank.unitAt_cases :
    Bank.unitAt b w i = UnitRegs.reset ∨ ⟨w, i, Bank.unitAt b w i⟩ ∈ b := by
  induction b with
  | nil => exact .inl rfl
  | cons e rest ih =>
    simp only [Bank.unitAt]
    split
    · next h =>
      obtain ⟨rfl, rfl⟩ := h
      exact .inr List.mem_cons_self
    · exact ih.imp_right (List.mem_cons_of_mem _)

/-- In canonical form a unit exists, is seeded and holds W lanes, or is as after reset. -/
theorem Bank.unitAt_wellFormed {p : Params} (h : Bank.WellFormed p b) :
    (Bank.unitAt b w i).seeded = true ∧ (Bank.unitAt b w i).lanes.length = w.lanes ∧
        unitsExist p w [i] = true ∨
      Bank.unitAt b w i = UnitRegs.reset := by
  rcases Bank.unitAt_cases b w i with hr | hm
  · exact .inr hr
  · exact .inl (h.2 _ hm)

/-- In canonical form a seeded unit holds W lanes. -/
theorem Bank.lanes_length {p : Params} (h : Bank.WellFormed p b)
    (hs : (Bank.unitAt b w i).seeded = true) : (Bank.unitAt b w i).lanes.length = w.lanes := by
  rcases Bank.unitAt_wellFormed b w i h with h | h
  · exact h.2.1
  · rw [h] at hs
    cases hs

@[simp] theorem Bank.allSeeded_one :
    Bank.allSeeded b w [i] = (Bank.unitAt b w i).seeded := by simp [Bank.allSeeded]

@[simp] theorem Bank.allSeeded_two :
    Bank.allSeeded b w [i, i'] =
      ((Bank.unitAt b w i).seeded && (Bank.unitAt b w i').seeded) := by simp [Bank.allSeeded]

/-- The empty store is in canonical form. -/
theorem Bank.nil_wellFormed (p : Params) : Bank.WellFormed p ([] : Bank α) :=
  ⟨List.Pairwise.nil, fun _ h => by cases h⟩

end Sys2Proof.Machine
end

