-- ==== Sys2Proof/Laws/Bits.lean ====
section
/-! SUPPORT. Xor-shift steps are bijections on words, and the rotate (00_scope.md R14) has an inverse. -/

namespace Sys2Proof.Machine

/-- A left xor-shift loses nothing: bit b of the result is bit b of the word but for a lower bit. -/
theorem xorShiftLeft_injective {a : Nat} (ha : 0 < a) :
    Function.Injective fun x : Word => x ^^^ (x <<< a) := by
  intro x y h
  have hb : ∀ b, (x.getLsbD b ^^ (decide (b < 64) && !decide (b < a) && x.getLsbD (b - a))) =
      (y.getLsbD b ^^ (decide (b < 64) && !decide (b < a) && y.getLsbD (b - a))) := fun b => by
    simpa only [BitVec.getLsbD_xor, BitVec.getLsbD_shiftLeft] using congrArg (·.getLsbD b) h
  have key : ∀ b, x.getLsbD b = y.getLsbD b := fun b => by
    induction b using Nat.strongRecOn with
    | ind b ih =>
      have e := hb b
      by_cases hlt : b < a
      · simpa [hlt] using e
      · rw [ih (b - a) (by omega)] at e
        exact Bool.xor_left_inj.mp e
  exact BitVec.eq_of_getLsbD_eq fun b _ => key b

/-- A right xor-shift loses nothing: bit b of the result is bit b of the word but for a higher bit. -/
theorem xorShiftRight_injective {a : Nat} (ha : 0 < a) :
    Function.Injective fun x : Word => x ^^^ (x >>> a) := by
  intro x y h
  have hb : ∀ b, (x.getLsbD b ^^ x.getLsbD (a + b)) = (y.getLsbD b ^^ y.getLsbD (a + b)) :=
    fun b => by
      simpa only [BitVec.getLsbD_xor, BitVec.getLsbD_ushiftRight] using congrArg (·.getLsbD b) h
  have key : ∀ m b, 64 ≤ b + m → x.getLsbD b = y.getLsbD b := fun m => by
    induction m with
    | zero => 
      intro b hle
      rw [BitVec.getLsbD_of_ge x b hle, BitVec.getLsbD_of_ge y b hle]
    | succ m ih =>
      intro b hle
      have e := hb b
      rw [ih (a + b) (by omega)] at e
      exact Bool.xor_left_inj.mp e
  exact BitVec.eq_of_getLsbD_eq fun b _ => key 64 b (by omega)

/-- The bits of a rotate: bit b is bit b - k of the word, round the 64. -/
theorem rotl_getLsbD (x : Word) {k b : Nat} (hk : k ≤ 64) (hb : b < 64) :
    (rotl x k).getLsbD b = if b < k then x.getLsbD (64 - k + b) else x.getLsbD (b - k) := by
  simp only [rotl, BitVec.getLsbD_or, BitVec.getLsbD_shiftLeft, BitVec.getLsbD_ushiftRight, hb,
    decide_true, Bool.true_and]
  by_cases h : b < k
  · simp [h]
  · simp [h, BitVec.getLsbD_of_ge x (64 - k + b) (by omega)]

/-- Rotating on by 64 - k undoes a rotate by k. -/
theorem rotl_rotl_inverse (x : Word) {k : Nat} (hk : k ≤ 64) : rotl (rotl x k) (64 - k) = x := by
  refine BitVec.eq_of_getLsbD_eq fun b hb => ?_
  rw [rotl_getLsbD _ (by omega) hb]
  split
  · next h =>
    rw [rotl_getLsbD _ hk (by omega), if_neg (by omega)]
    congr 1
    omega
  · next h =>
    rw [rotl_getLsbD _ hk (by omega), if_pos (by omega)]
    congr 1
    omega

@[simp] theorem rotl_zero_word (k : Nat) : rotl 0 k = 0 := by simp [rotl]

end Sys2Proof.Machine
end

