-- ==== Sys2Proof/Laws/Decode.lean ====
section
/-! SUPPORT. Fields as arithmetic, and the fields of an encoded word. -/

namespace Sys2Proof

/-- `c[hi:lo]` by division: the form `omega` reads. -/
theorem field_eq (c : CommandWord) (hi lo : Nat) :
    field c hi lo = c.toNat / 2 ^ lo % 2 ^ (hi - lo + 1) := by
  simp [field, BitVec.extractLsb, Nat.shiftRight_eq_div_pow]

theorem Width.code_lt (w : Width) : w.code < 4 := by cases w <;> decide

@[simp] theorem widthOf_code (w : Width) : widthOf w.code = w := by cases w <;> rfl

theorem code_widthOf {n : Nat} (h : n < 4) : (widthOf n).code = n := by
  obtain rfl | rfl | rfl | rfl : n = 0 ∨ n = 1 ∨ n = 2 ∨ n = 3 := by omega
  all_goals rfl

/-- An encoded word's number is the sum of its fields. -/
theorem rowWord_toNat {fixed : CommandWord} (h : fixed.toNat < 64) (w : Width) (i i2 : Inst) :
    (rowWord fixed w i i2).toNat =
      fixed.toNat + 64 * w.code + 256 * i.val + 4096 * i2.val := by
  have hw := w.code_lt
  have hi := i.isLt
  have hi2 := i2.isLt
  have or_shift : ∀ {a b k : Nat}, b < 2 ^ k → b ||| a <<< k = b + 2 ^ k * a := by
    intro a b k hb
    rw [Nat.or_comm, ← Nat.shiftLeft_add_eq_or_of_lt hb, Nat.shiftLeft_eq, Nat.add_comm,
      Nat.mul_comm]
  have e6 : (BitVec.ofNat 32 w.code <<< 6).toNat = w.code <<< 6 := by
    simp only [BitVec.toNat_shiftLeft, BitVec.toNat_ofNat, Nat.shiftLeft_eq]
    omega
  have e8 : (BitVec.ofNat 32 i.val <<< 8).toNat = i.val <<< 8 := by
    simp only [BitVec.toNat_shiftLeft, BitVec.toNat_ofNat, Nat.shiftLeft_eq]
    omega
  have e12 : (BitVec.ofNat 32 i2.val <<< 12).toNat = i2.val <<< 12 := by
    simp only [BitVec.toNat_shiftLeft, BitVec.toNat_ofNat, Nat.shiftLeft_eq]
    omega
  rw [rowWord, BitVec.toNat_or, BitVec.toNat_or, BitVec.toNat_or, e6, e8, e12,
    or_shift (b := fixed.toNat) (by omega),
    or_shift (b := fixed.toNat + 2 ^ 6 * w.code) (by omega), or_shift (by omega)]
  omega

/-- The fields of an encoded word. -/
theorem rowWord_fields {fixed : CommandWord} (h : fixed.toNat < 64) (w : Width) (i i2 : Inst) :
    field (rowWord fixed w i i2) 31 16 = 0 ∧ field (rowWord fixed w i i2) 2 0 = fixed.toNat % 8 ∧
      field (rowWord fixed w i i2) 5 3 = fixed.toNat / 8 ∧
      field (rowWord fixed w i i2) 7 6 = w.code ∧ field (rowWord fixed w i i2) 11 8 = i.val ∧
      field (rowWord fixed w i i2) 15 12 = i2.val := by
  have hw := w.code_lt
  have hi := i.isLt
  have hi2 := i2.isLt
  simp only [field_eq, rowWord_toNat h]
  refine ⟨?_, ?_, ?_, ?_, ?_, ?_⟩ <;> omega

/-! ### Bus bytes (R43) -/

@[simp] theorem bytesOf_length {k : Nat} (n : Nat) (x : BitVec k) : (bytesOf n x).length = n := by
  simp [bytesOf]

/-- The number that the bytes of a word carry, byte by byte. -/
theorem numberOfBytes_bytesOf {k : Nat} (n : Nat) (x : BitVec k) :
    numberOfBytes (bytesOf n x) = x.toNat % 2 ^ (8 * n) := by
  suffices h : ∀ n m, numberOfBytes
      ((List.range' m n).map fun b => x.extractLsb' (8 * b) 8) =
        x.toNat / 2 ^ (8 * m) % 2 ^ (8 * n) by
    simpa [bytesOf, List.range_eq_range'] using h n 0
  intro n
  induction n with
  | zero => intro m; simp [numberOfBytes, Nat.mod_one]
  | succ n ih =>
    intro m
    have e : (2 : Nat) ^ (8 * (m + 1)) = 2 ^ (8 * m) * 256 := by
      rw [Nat.mul_add, Nat.pow_add]
    have e' : (2 : Nat) ^ (8 * (n + 1)) = 256 * 2 ^ (8 * n) := by
      rw [Nat.mul_add, Nat.pow_add, Nat.mul_comm]
    rw [List.range'_succ, List.map_cons, numberOfBytes, ih, e, e', ← Nat.div_div_eq_div_mul,
      Nat.mod_mul]
    simp [Nat.shiftRight_eq_div_pow]

end Sys2Proof
end

