-- ==== Sys2Proof/Laws/Operands.lean ====
section
/-! SUPPORT. Word-major order (30_encoding.md R62): lengths, the round trip, and where each word stands. -/

namespace Sys2Proof.Machine

/-- `W = 2^WC` (R59). -/
theorem Width.lanes_eq_two_pow_code (w : Width) : w.lanes = 2 ^ w.code := by cases w <;> rfl

theorem Width.lanes_pos (w : Width) : 0 < w.lanes := by cases w <;> decide

variable (W : Nat) (d : List Word)

@[simp] theorem words1_length (x : Word) : (words1 x).length = 1 := rfl
@[simp] theorem Lane2.words_length (l : Lane2) : l.words.length = 2 := rfl
@[simp] theorem Lane4.words_length (l : Lane4) : l.words.length = 4 := rfl

theorem words1_injective : Function.Injective words1 := fun a b h => by simpa [words1] using h

theorem Lane2.words_injective : Function.Injective Lane2.words := fun a b h => by
  cases a
  cases b
  simpa [Lane2.words] using h

theorem Lane4.words_injective : Function.Injective Lane4.words := fun a b h => by
  cases a
  cases b
  simpa [Lane4.words] using h

/-! ### One word a lane -/

theorem lanesOfData1_length (h : d.length = 1 * W) : (lanesOfData1 W d).length = W := by
  simp [lanesOfData1, h]

theorem dataOfLanes1_lanesOfData1 (h : d.length = 1 * W) :
    dataOfLanes1 (lanesOfData1 W d) = d := by
  simp [dataOfLanes1, lanesOfData1, List.take_of_length_le (l := d) (i := W) (by omega)]

theorem lanesOfData1_word (_ : d.length = 1 * W) {j k : Nat} (hj : j < 1) (hk : k < W) :
    ((lanesOfData1 W d)[k]?.map words1).bind (·[j]?) = d[j * W + k]? := by
  obtain rfl : j = 0 := by omega
  simp only [lanesOfData1, List.getElem?_take_of_lt hk, Nat.zero_mul, Nat.zero_add]
  cases d[k]? <;> rfl

theorem dataOfLanes1_word (l : List Word) (_ : l.length = W) {j k : Nat} (hj : j < 1)
    (_ : k < W) : (dataOfLanes1 l)[j * W + k]? = (l[k]?.map words1).bind (·[j]?) := by
  obtain rfl : j = 0 := by omega
  simp only [dataOfLanes1, Nat.zero_mul, Nat.zero_add]
  cases l[k]? <;> rfl

/-! ### Two words a lane -/

theorem lanesOfData2_length (h : 2 * W ≤ d.length) : (lanesOfData2 W d).length = W := by
  simp only [lanesOfData2, List.length_zipWith, List.length_take, List.length_drop]
  omega

theorem lanesOfData2_getElem (h : 2 * W ≤ d.length) {k : Nat} (hk : k < W) :
    (lanesOfData2 W d)[k]? = some ⟨d[k], d[W + k]⟩ := by
  simp only [lanesOfData2, List.getElem?_zipWith, List.getElem?_take_of_lt hk, List.getElem?_drop]
  rw [List.getElem?_eq_getElem (by omega), List.getElem?_eq_getElem (by omega)]

theorem lanesOfData2_word (h : d.length = 2 * W) {j k : Nat} (hj : j < 2) (hk : k < W) :
    ((lanesOfData2 W d)[k]?.map Lane2.words).bind (·[j]?) = d[j * W + k]? := by
  rw [lanesOfData2_getElem W d (by omega) hk]
  obtain rfl | rfl : j = 0 ∨ j = 1 := by omega
  all_goals simp [Lane2.words]

theorem dataOfLanes2_length (l : List Lane2) : (dataOfLanes2 l).length = 2 * l.length := by
  simp [dataOfLanes2, Nat.two_mul]

theorem dataOfLanes2_word (l : List Lane2) (h : l.length = W) {j k : Nat} (hj : j < 2)
    (hk : k < W) : (dataOfLanes2 l)[j * W + k]? = (l[k]?.map Lane2.words).bind (·[j]?) := by
  subst h
  obtain rfl | rfl : j = 0 ∨ j = 1 := by omega
  · rw [dataOfLanes2, List.getElem?_append_left (by simpa using hk)]
    simp [hk, Lane2.words]
  · rw [dataOfLanes2, List.getElem?_append_right (by simp)]
    simp [hk, Lane2.words]

/-! ### Four words a lane -/

theorem lanesOfData4_length (h : d.length = 4 * W) : (lanesOfData4 W d).length = W := by
  simp only [lanesOfData4, List.length_zipWith]
  rw [lanesOfData2_length W d (by omega),
    lanesOfData2_length W (d.drop (2 * W)) (by rw [List.length_drop]; omega)]
  exact Nat.min_self W

theorem lanesOfData4_word (h : d.length = 4 * W) {j k : Nat} (hj : j < 4) (hk : k < W) :
    ((lanesOfData4 W d)[k]?.map Lane4.words).bind (·[j]?) = d[j * W + k]? := by
  have hd : 2 * W ≤ (d.drop (2 * W)).length := by rw [List.length_drop]; omega
  simp only [lanesOfData4, List.getElem?_zipWith]
  rw [lanesOfData2_getElem W d (by omega) hk, lanesOfData2_getElem W (d.drop (2 * W)) hd hk]
  obtain rfl | rfl | rfl | rfl : j = 0 ∨ j = 1 ∨ j = 2 ∨ j = 3 := by omega
  · simp [Lane4.words]
  · simp [Lane4.words]
  · simp [Lane4.words]
  · simp only [Lane4.words, List.getElem_drop, Option.map_some, Option.bind_some,
      List.getElem?_cons_succ, List.getElem?_cons_zero]
    rw [List.getElem?_eq_getElem (by omega)]
    congr 2
    omega

theorem dataOfLanes4_length (l : List Lane4) : (dataOfLanes4 l).length = 4 * l.length := by
  simp only [dataOfLanes4, List.length_append, List.length_map]
  omega

theorem dataOfLanes4_word (l : List Lane4) (h : l.length = W) {j k : Nat} (hj : j < 4)
    (hk : k < W) : (dataOfLanes4 l)[j * W + k]? = (l[k]?.map Lane4.words).bind (·[j]?) := by
  subst h
  rw [dataOfLanes4]
  obtain rfl | rfl | rfl | rfl : j = 0 ∨ j = 1 ∨ j = 2 ∨ j = 3 := by omega
  · rw [List.append_assoc, List.append_assoc, List.getElem?_append_left (by simpa using hk)]
    simp [hk, Lane4.words]
  · rw [List.append_assoc, List.append_assoc, List.getElem?_append_right (by simp),
      List.getElem?_append_left (by simpa using hk)]
    simp [hk, Lane4.words]
  · rw [List.append_assoc, List.getElem?_append_right (by simp; omega),
      List.getElem?_append_left (by simp; omega)]
    have e : 2 * l.length + k - (l.length + l.length) = k := by omega
    simp [hk, Lane4.words, e]
  · rw [List.getElem?_append_right (by simp; omega)]
    simp only [List.length_append, List.length_map]
    have e : 3 * l.length + k - (l.length + l.length + l.length) = k := by omega
    rw [e]
    simp [hk, Lane4.words]

/-! ### Data index n is word n / W of lane n % W -/

/-- Two lists of m*W words that agree at every index j*W + k are the same list. -/
theorem wordMajor_ext {m W : Nat} {a b : List Word} (ha : a.length = m * W)
    (hb : b.length = m * W) (h : ∀ j < m, ∀ k < W, a[j * W + k]? = b[j * W + k]?) : a = b := by
  refine List.ext_getElem? fun n => ?_
  rcases Nat.lt_or_ge n (m * W) with hn | hn
  · have hW : 0 < W := Nat.pos_of_ne_zero (by rintro rfl; simp at hn)
    have e : n / W * W + n % W = n := by rw [Nat.mul_comm]; exact Nat.div_add_mod n W
    have := h (n / W) (Nat.div_lt_of_lt_mul (by rwa [Nat.mul_comm])) (n % W) (Nat.mod_lt n hW)
    rwa [e] at this
  · rw [List.getElem?_eq_none (by omega), List.getElem?_eq_none (by omega)]

end Sys2Proof.Machine
end

