-- ==== Sys2Proof/Laws/State.lean ====
section
/-! SUPPORT. One lemma per field per update of State, so that no proof unfolds a record update. -/

namespace Sys2Proof.Machine

variable (s : State) (st : Status) (d : List Word) (r : Request)

/-! ### Answering -/

@[simp] theorem State.answer_params : (s.answer st d).params = s.params := rfl
@[simp] theorem State.answer_ss : (s.answer st d).ss = s.ss := rfl
@[simp] theorem State.answer_xs64 : (s.answer st d).xs64 = s.xs64 := rfl
@[simp] theorem State.answer_xs128p : (s.answer st d).xs128p = s.xs128p := rfl
@[simp] theorem State.answer_xrs128p : (s.answer st d).xrs128p = s.xrs128p := rfl
@[simp] theorem State.answer_xsh256pp : (s.answer st d).xsh256pp = s.xsh256pp := rfl
@[simp] theorem State.answer_inputs : (s.answer st d).inputs = s.inputs := rfl
@[simp] theorem State.answer_draws : (s.answer st d).draws = s.draws := rfl
@[simp] theorem State.answer_responses :
    (s.answer st d).responses = s.responses ++ [⟨st, d⟩] := rfl

/-! ### Reset -/

@[simp] theorem State.resetUnits_params : s.resetUnits.params = s.params := rfl
@[simp] theorem State.resetUnits_ss : s.resetUnits.ss = [] := rfl
@[simp] theorem State.resetUnits_xs64 : s.resetUnits.xs64 = [] := rfl
@[simp] theorem State.resetUnits_xs128p : s.resetUnits.xs128p = [] := rfl
@[simp] theorem State.resetUnits_xrs128p : s.resetUnits.xrs128p = [] := rfl
@[simp] theorem State.resetUnits_xsh256pp : s.resetUnits.xsh256pp = [] := rfl
@[simp] theorem State.resetUnits_inputs : s.resetUnits.inputs = s.inputs := rfl
@[simp] theorem State.resetUnits_responses : s.resetUnits.responses = s.responses := rfl
@[simp] theorem State.resetUnits_draws : s.resetUnits.draws = s.draws := rfl

/-! ### A request put first on the port -/

@[simp] theorem State.sendFirst_inputs : (s.sendFirst r).inputs = .request r :: s.inputs := rfl
@[simp] theorem State.sendFirst_params : (s.sendFirst r).params = s.params := rfl
@[simp] theorem State.sendFirst_responses : (s.sendFirst r).responses = s.responses := rfl
@[simp] theorem State.sendFirst_draws : (s.sendFirst r).draws = s.draws := rfl

/-! ### The view of a unit looks at the stores only -/

variable (f : Family) (w : Width) (i : Inst)

@[simp] theorem State.answer_unit : (s.answer st d).unit f w i = s.unit f w i := rfl

@[simp] theorem State.with_inputs_unit (inp : List Input) :
    ({ s with inputs := inp } : State).unit f w i = s.unit f w i := rfl

@[simp] theorem State.with_responses_unit (a : List Response) :
    ({ s with responses := a } : State).unit f w i = s.unit f w i := rfl

@[simp] theorem State.with_draws_unit (n : Nat) :
    ({ s with draws := n } : State).unit f w i = s.unit f w i := rfl

@[simp] theorem State.with_params_unit (p : Config.Params) :
    ({ s with params := p } : State).unit f w i = s.unit f w i := rfl

theorem State.resetUnits_unit : s.resetUnits.unit f w i = ⟨false, []⟩ := by
  cases f <;> rfl

end Sys2Proof.Machine
end

