-- ==== Sys2Proof/Laws/Ops.lean ====
section
/-! SUPPORT. What the shared operations do, once for all families: `FamilyOps.Lawful` says how a family's
operations and the spec's names for the state fit together, and the lemmas after it say everything LOAD, NEXT,
READ and EQ can answer. -/

namespace Sys2Proof.Machine

open Sys2Proof.Config (Params)

/-! ### The checks -/

theorem firstError_absent {p : Params} {w : Width} {is : List Inst} {want got : Nat} {b : Bool}
    (h : unitsExist p w is = false) : firstError p w is want got b = some .errAbsent := by
  simp [firstError, h]

theorem firstError_length {p : Params} {w : Width} {is : List Inst} {want got : Nat} {b : Bool}
    (h : unitsExist p w is = true) (hl : got ≠ want) :
    firstError p w is want got b = some .errLength := by
  simp [firstError, h, hl]

theorem firstError_unseeded {p : Params} {w : Width} {is : List Inst} {n : Nat} {b : Bool}
    (h : unitsExist p w is = true) (hb : b = false) :
    firstError p w is n n b = some .errUnseeded := by
  simp [firstError, h, hb]

theorem firstError_none {p : Params} {w : Width} {is : List Inst} {n : Nat} {b : Bool}
    (h : unitsExist p w is = true) (hb : b = true) : firstError p w is n n b = none := by
  simp [firstError, h, hb]

/-- No check fails exactly when the units exist, the data length is right and the units are seeded. -/
theorem firstError_eq_none_iff {p : Params} {w : Width} {is : List Inst} {want got : Nat}
    {b : Bool} :
    firstError p w is want got b = none ↔ unitsExist p w is = true ∧ got = want ∧ b = true := by
  unfold firstError
  cases unitsExist p w is <;> cases b <;> by_cases h : got = want <;> simp [h]

/-- A failing check is never OK. -/
theorem firstError_ne_ok {p : Params} {w : Width} {is : List Inst} {want got : Nat} {b : Bool} :
    firstError p w is want got b ≠ some .ok := by
  unfold firstError
  split
  · simp
  · split
    · simp
    · split <;> simp

/-! ### Families -/

/-- The operations of a family and the spec's names for its units agree, and its store is its own. -/
structure FamilyOps.Lawful {α : Type} (F : FamilyOps α) (f : Family) : Prop where
  wordCount_eq     : F.wordCount = f.wordCount
  words_length     : ∀ l, (F.words l).length = F.wordCount
  words_injective  : Function.Injective F.words
  ofData_length    : ∀ W d, d.length = F.wordCount * W → (F.ofData W d).length = W
  ofData_word      : ∀ W d, d.length = F.wordCount * W → ∀ j < F.wordCount, ∀ k < W,
    ((F.ofData W d)[k]?.map F.words).bind (·[j]?) = d[j * W + k]?
  toData_length    : ∀ l, (F.toData l).length = F.wordCount * l.length
  toData_word      : ∀ l W, l.length = W → ∀ j < F.wordCount, ∀ k < W,
    (F.toData l)[j * W + k]? = (l[k]?.map F.words).bind (·[j]?)
  unit_eq          : ∀ s w i, s.unit f w i = (Bank.unitAt (F.bank s) w i).view F.words
  bank_setBank     : ∀ s b, F.bank (F.setBank s b) = b
  unit_setBank     : ∀ s b f' w i, f' ≠ f → (F.setBank s b).unit f' w i = s.unit f' w i
  setBank_setBank  : ∀ s b c, F.setBank (F.setBank s b) c = F.setBank s c
  bank_answer      : ∀ s st d, F.bank (s.answer st d) = F.bank s
  setBank_answer   : ∀ s st d b, F.setBank (s.answer st d) b = (F.setBank s b).answer st d
  bank_params      : ∀ (s : State) p, F.bank { s with params := p } = F.bank s
  setBank_params   : ∀ (s : State) p b,
    F.setBank { s with params := p } b = { F.setBank s b with params := p }
  params_setBank   : ∀ s b, (F.setBank s b).params = s.params
  inputs_setBank   : ∀ s b, (F.setBank s b).inputs = s.inputs
  responses_setBank : ∀ s b, (F.setBank s b).responses = s.responses
  draws_setBank    : ∀ s b, (F.setBank s b).draws = s.draws
  wellFormed_bank  : ∀ s : State, s.WellFormed → Bank.WellFormed s.params (F.bank s)
  wellFormed_setBank : ∀ (s : State) b, s.WellFormed → Bank.WellFormed s.params b →
    (F.setBank s b).WellFormed

namespace FamilyOps.Lawful

variable {α : Type} {F : FamilyOps α} {f : Family} (L : F.Lawful f)

include L

theorem isSeeded_eq (s : State) (w : Width) (i : Inst) :
    s.isSeeded f w i = (Bank.unitAt (F.bank s) w i).seeded := by
  simp [State.isSeeded, L.unit_eq, UnitRegs.view]

theorem word?_eq (s : State) (w : Width) (i : Inst) (j k : Nat) :
    s.word? f w i j k = ((Bank.unitAt (F.bank s) w i).lanes[k]?.map F.words).bind (·[j]?) := by
  simp [State.word?, L.unit_eq, UnitRegs.view]

/-- Two units of a family that look the same are the same. -/
theorem unitAt_eq_of_unit_eq {s t : State} {w w' : Width} {i i' : Inst}
    (h : s.unit f w i = t.unit f w' i') :
    Bank.unitAt (F.bank s) w i = Bank.unitAt (F.bank t) w' i' := by
  simp only [L.unit_eq, UnitRegs.view, UnitView.mk.injEq] at h
  generalize Bank.unitAt (F.bank s) w i = a at h ⊢
  generalize Bank.unitAt (F.bank t) w' i' = b at h ⊢
  cases a
  cases b
  simp only [UnitRegs.mk.injEq] at h ⊢
  exact ⟨h.1, List.map_injective_iff.mpr L.words_injective h.2⟩

/-- Storing a unit changes that unit's view, to what is stored. -/
theorem unit_store_same (s : State) (w : Width) (i : Inst) (u : UnitRegs α) :
    (F.setBank s (Bank.store (F.bank s) w i u)).unit f w i = u.view F.words := by
  simp [L.unit_eq, L.bank_setBank]

/-- Storing a unit changes no other unit's view. -/
theorem unit_store_other (s : State) (w : Width) (i : Inst) (u : UnitRegs α) {f' : Family}
    {w' : Width} {i' : Inst} (h : (f', w', i') ≠ (f, w, i)) :
    (F.setBank s (Bank.store (F.bank s) w i u)).unit f' w' i' = s.unit f' w' i' := by
  by_cases hf : f' = f
  · subst hf
    rw [L.unit_eq, L.unit_eq, L.bank_setBank, Bank.unitAt_store_other]
    rintro ⟨rfl, rfl⟩
    exact h rfl
  · exact L.unit_setBank _ _ _ _ _ hf

/-- What LOAD answers: the first failing check, or OK with the unit written. -/
theorem loadUnit_eq (w : Width) (i : Inst) (d : List Word) (s : State) :
    (∃ e, firstError s.params w [i] (f.wordCount * w.lanes) d.length true = some e ∧
      loadUnit F w i d s = .next (s.answer e [])) ∨
    (unitsExist s.params w [i] = true ∧ d.length = f.wordCount * w.lanes ∧
      loadUnit F w i d s =
        .next ((F.setBank s
          (Bank.store (F.bank s) w i ⟨true, F.ofData w.lanes d⟩)).answer .ok [])) := by
  unfold loadUnit
  rw [L.wordCount_eq]
  cases h : firstError s.params w [i] (f.wordCount * w.lanes) d.length true with
  | some e => exact .inl ⟨e, rfl, rfl⟩
  | none =>
    obtain ⟨h1, h2, -⟩ := firstError_eq_none_iff.mp h
    exact .inr ⟨h1, h2, rfl⟩

omit L in
/-- What NEXT answers: the first failing check, or OK with every lane stepped. -/
theorem nextUnit_eq (F : FamilyOps α) (w : Width) (i : Inst) (d : List Word) (s : State) :
    (∃ e, firstError s.params w [i] 0 d.length (Bank.unitAt (F.bank s) w i).seeded = some e ∧
      nextUnit F w i d s = .next (s.answer e [])) ∨
    (unitsExist s.params w [i] = true ∧ d = [] ∧ (Bank.unitAt (F.bank s) w i).seeded = true ∧
      nextUnit F w i d s =
        .next ((F.setBank s (Bank.store (F.bank s) w i
          ⟨true, (Bank.unitAt (F.bank s) w i).lanes.map fun l => (F.next l).1⟩)).answer .ok
            ((Bank.unitAt (F.bank s) w i).lanes.map fun l => (F.next l).2))) := by
  unfold nextUnit
  rw [Bank.allSeeded_one]
  cases h : firstError s.params w [i] 0 d.length (Bank.unitAt (F.bank s) w i).seeded with
  | some e => exact .inl ⟨e, rfl, rfl⟩
  | none =>
    obtain ⟨h1, h2, h3⟩ := firstError_eq_none_iff.mp h
    refine .inr ⟨h1, List.length_eq_zero_iff.mp h2, h3, ?_⟩
    simp [respond, h3, Function.comp_def]

omit L in
/-- What READ answers: the first failing check, or OK with the unit's words; no unit is written. -/
theorem readUnit_eq (F : FamilyOps α) (w : Width) (i : Inst) (d : List Word) (s : State) :
    (∃ e, firstError s.params w [i] 0 d.length (Bank.unitAt (F.bank s) w i).seeded = some e ∧
      readUnit F w i d s = .next (s.answer e [])) ∨
    (unitsExist s.params w [i] = true ∧ d = [] ∧ (Bank.unitAt (F.bank s) w i).seeded = true ∧
      readUnit F w i d s =
        .next (s.answer .ok (F.toData (Bank.unitAt (F.bank s) w i).lanes))) := by
  unfold readUnit
  rw [Bank.allSeeded_one]
  cases h : firstError s.params w [i] 0 d.length (Bank.unitAt (F.bank s) w i).seeded with
  | some e => exact .inl ⟨e, rfl, rfl⟩
  | none =>
    obtain ⟨h1, h2, h3⟩ := firstError_eq_none_iff.mp h
    exact .inr ⟨h1, List.length_eq_zero_iff.mp h2, h3, rfl⟩

omit L in
/-- What EQ answers: the first failing check, or OK with one word; no unit is written. -/
theorem eqUnits_eq [DecidableEq α] (F : FamilyOps α) (w : Width) (i i2 : Inst) (d : List Word)
    (s : State) :
    (∃ e, firstError s.params w [i, i2] 0 d.length
        ((Bank.unitAt (F.bank s) w i).seeded && (Bank.unitAt (F.bank s) w i2).seeded) = some e ∧
      eqUnits F w i i2 d s = .next (s.answer e [])) ∨
    (unitsExist s.params w [i, i2] = true ∧ d = [] ∧
      (Bank.unitAt (F.bank s) w i).seeded = true ∧ (Bank.unitAt (F.bank s) w i2).seeded = true ∧
      eqUnits F w i i2 d s =
        .next (s.answer .ok
          [if (Bank.unitAt (F.bank s) w i).lanes = (Bank.unitAt (F.bank s) w i2).lanes
            then 1 else 0])) := by
  unfold eqUnits
  rw [Bank.allSeeded_two]
  cases h : firstError s.params w [i, i2] 0 d.length
      ((Bank.unitAt (F.bank s) w i).seeded && (Bank.unitAt (F.bank s) w i2).seeded) with
  | some e => exact .inl ⟨e, rfl, rfl⟩
  | none =>
    obtain ⟨h1, h2, h3⟩ := firstError_eq_none_iff.mp h
    rw [Bool.and_eq_true] at h3
    refine .inr ⟨h1, List.length_eq_zero_iff.mp h2, h3.1, h3.2, ?_⟩
    simp [respond, wordOfBool]

end FamilyOps.Lawful

end Sys2Proof.Machine
end

