-- ==== Sys2Proof/Laws/Families.lean ====
section
/-! SUPPORT. The five families are lawful, and `exec` of each command is the shared operation of its family. -/

namespace Sys2Proof.Machine

theorem dataOfLanes1_length (l : List Word) : (dataOfLanes1 l).length = 1 * l.length := by
  simp [dataOfLanes1]

theorem ssOps_lawful : ssOps.Lawful .ss where
  wordCount_eq := rfl
  words_length := words1_length
  words_injective := words1_injective
  ofData_length := fun W d h => lanesOfData1_length W d h
  ofData_word := fun W d h _ hj _ hk => lanesOfData1_word W d h hj hk
  toData_length := dataOfLanes1_length
  toData_word := fun l W h _ hj _ hk => dataOfLanes1_word W l h hj hk
  unit_eq := fun _ _ _ => rfl
  bank_setBank := fun _ _ => rfl
  unit_setBank := fun _ _ f' _ _ h => by cases f' <;> first | rfl | exact absurd rfl h
  setBank_setBank := fun _ _ _ => rfl
  bank_answer := fun _ _ _ => rfl
  setBank_answer := fun _ _ _ _ => rfl
  bank_params := fun _ _ => rfl
  setBank_params := fun _ _ _ => rfl
  params_setBank := fun _ _ => rfl
  inputs_setBank := fun _ _ => rfl
  responses_setBank := fun _ _ => rfl
  draws_setBank := fun _ _ => rfl
  wellFormed_bank := fun _ h => h.1
  wellFormed_setBank := fun _ _ h hb => ⟨hb, h.2.1, h.2.2.1, h.2.2.2.1, h.2.2.2.2⟩

theorem xs64Ops_lawful : xs64Ops.Lawful .xs64 where
  wordCount_eq := rfl
  words_length := words1_length
  words_injective := words1_injective
  ofData_length := fun W d h => lanesOfData1_length W d h
  ofData_word := fun W d h _ hj _ hk => lanesOfData1_word W d h hj hk
  toData_length := dataOfLanes1_length
  toData_word := fun l W h _ hj _ hk => dataOfLanes1_word W l h hj hk
  unit_eq := fun _ _ _ => rfl
  bank_setBank := fun _ _ => rfl
  unit_setBank := fun _ _ f' _ _ h => by cases f' <;> first | rfl | exact absurd rfl h
  setBank_setBank := fun _ _ _ => rfl
  bank_answer := fun _ _ _ => rfl
  setBank_answer := fun _ _ _ _ => rfl
  bank_params := fun _ _ => rfl
  setBank_params := fun _ _ _ => rfl
  params_setBank := fun _ _ => rfl
  inputs_setBank := fun _ _ => rfl
  responses_setBank := fun _ _ => rfl
  draws_setBank := fun _ _ => rfl
  wellFormed_bank := fun _ h => h.2.1
  wellFormed_setBank := fun _ _ h hb => ⟨h.1, hb, h.2.2.1, h.2.2.2.1, h.2.2.2.2⟩

theorem xs128pOps_lawful : xs128pOps.Lawful .xs128p where
  wordCount_eq := rfl
  words_length := Lane2.words_length
  words_injective := Lane2.words_injective
  ofData_length := fun W d h => lanesOfData2_length W d (Nat.le_of_eq h.symm)
  ofData_word := fun W d h _ hj _ hk => lanesOfData2_word W d h hj hk
  toData_length := dataOfLanes2_length
  toData_word := fun l W h _ hj _ hk => dataOfLanes2_word W l h hj hk
  unit_eq := fun _ _ _ => rfl
  bank_setBank := fun _ _ => rfl
  unit_setBank := fun _ _ f' _ _ h => by cases f' <;> first | rfl | exact absurd rfl h
  setBank_setBank := fun _ _ _ => rfl
  bank_answer := fun _ _ _ => rfl
  setBank_answer := fun _ _ _ _ => rfl
  bank_params := fun _ _ => rfl
  setBank_params := fun _ _ _ => rfl
  params_setBank := fun _ _ => rfl
  inputs_setBank := fun _ _ => rfl
  responses_setBank := fun _ _ => rfl
  draws_setBank := fun _ _ => rfl
  wellFormed_bank := fun _ h => h.2.2.1
  wellFormed_setBank := fun _ _ h hb => ⟨h.1, h.2.1, hb, h.2.2.2.1, h.2.2.2.2⟩

theorem xrs128pOps_lawful : xrs128pOps.Lawful .xrs128p where
  wordCount_eq := rfl
  words_length := Lane2.words_length
  words_injective := Lane2.words_injective
  ofData_length := fun W d h => lanesOfData2_length W d (Nat.le_of_eq h.symm)
  ofData_word := fun W d h _ hj _ hk => lanesOfData2_word W d h hj hk
  toData_length := dataOfLanes2_length
  toData_word := fun l W h _ hj _ hk => dataOfLanes2_word W l h hj hk
  unit_eq := fun _ _ _ => rfl
  bank_setBank := fun _ _ => rfl
  unit_setBank := fun _ _ f' _ _ h => by cases f' <;> first | rfl | exact absurd rfl h
  setBank_setBank := fun _ _ _ => rfl
  bank_answer := fun _ _ _ => rfl
  setBank_answer := fun _ _ _ _ => rfl
  bank_params := fun _ _ => rfl
  setBank_params := fun _ _ _ => rfl
  params_setBank := fun _ _ => rfl
  inputs_setBank := fun _ _ => rfl
  responses_setBank := fun _ _ => rfl
  draws_setBank := fun _ _ => rfl
  wellFormed_bank := fun _ h => h.2.2.2.1
  wellFormed_setBank := fun _ _ h hb => ⟨h.1, h.2.1, h.2.2.1, hb, h.2.2.2.2⟩

theorem xsh256ppOps_lawful : xsh256ppOps.Lawful .xsh256pp where
  wordCount_eq := rfl
  words_length := Lane4.words_length
  words_injective := Lane4.words_injective
  ofData_length := fun W d h => lanesOfData4_length W d h
  ofData_word := fun W d h _ hj _ hk => lanesOfData4_word W d h hj hk
  toData_length := dataOfLanes4_length
  toData_word := fun l W h _ hj _ hk => dataOfLanes4_word W l h hj hk
  unit_eq := fun _ _ _ => rfl
  bank_setBank := fun _ _ => rfl
  unit_setBank := fun _ _ f' _ _ h => by cases f' <;> first | rfl | exact absurd rfl h
  setBank_setBank := fun _ _ _ => rfl
  bank_answer := fun _ _ _ => rfl
  setBank_answer := fun _ _ _ _ => rfl
  bank_params := fun _ _ => rfl
  setBank_params := fun _ _ _ => rfl
  params_setBank := fun _ _ => rfl
  inputs_setBank := fun _ _ => rfl
  responses_setBank := fun _ _ => rfl
  draws_setBank := fun _ _ => rfl
  wellFormed_bank := fun _ h => h.2.2.2.2
  wellFormed_setBank := fun _ _ h hb => ⟨h.1, h.2.1, h.2.2.1, h.2.2.2.1, hb⟩
/-- To prove something of every command, prove it of the four operations over any lawful family: each command
is one of these, and its `exec` is the shared operation. -/
theorem instr_induction {P : Instr → Prop}
    (load : ∀ {α : Type} (F : FamilyOps α) (f : Family), F.Lawful f → ∀ w i d,
      (∀ s, exec (.loadOf f w i d) s = loadUnit F w i d s) → P (.loadOf f w i d))
    (next : ∀ {α : Type} (F : FamilyOps α) (f : Family), F.Lawful f → ∀ w i d,
      (∀ s, exec (.nextOf f w i d) s = nextUnit F w i d s) → P (.nextOf f w i d))
    (read : ∀ {α : Type} (F : FamilyOps α) (f : Family), F.Lawful f → ∀ w i d,
      (∀ s, exec (.readOf f w i d) s = readUnit F w i d s) → P (.readOf f w i d))
    (eq : ∀ {α : Type} [DecidableEq α] (F : FamilyOps α) (f : Family), F.Lawful f → ∀ w i i2 d,
      (∀ s, exec (.eqOf f w i i2 d) s = eqUnits F w i i2 d s) → P (.eqOf f w i i2 d))
    (c : Instr) : P c := by
  cases c with
  | loadSs w i d => exact load ssOps .ss ssOps_lawful w i d fun _ => rfl
  | nextSs w i d => exact next ssOps .ss ssOps_lawful w i d fun _ => rfl
  | readSs w i d => exact read ssOps .ss ssOps_lawful w i d fun _ => rfl
  | eqSs w i i2 d => exact eq ssOps .ss ssOps_lawful w i i2 d fun _ => rfl
  | loadXs64 w i d => exact load xs64Ops .xs64 xs64Ops_lawful w i d fun _ => rfl
  | nextXs64 w i d => exact next xs64Ops .xs64 xs64Ops_lawful w i d fun _ => rfl
  | readXs64 w i d => exact read xs64Ops .xs64 xs64Ops_lawful w i d fun _ => rfl
  | eqXs64 w i i2 d => exact eq xs64Ops .xs64 xs64Ops_lawful w i i2 d fun _ => rfl
  | loadXs128p w i d => exact load xs128pOps .xs128p xs128pOps_lawful w i d fun _ => rfl
  | nextXs128p w i d => exact next xs128pOps .xs128p xs128pOps_lawful w i d fun _ => rfl
  | readXs128p w i d => exact read xs128pOps .xs128p xs128pOps_lawful w i d fun _ => rfl
  | eqXs128p w i i2 d => exact eq xs128pOps .xs128p xs128pOps_lawful w i i2 d fun _ => rfl
  | loadXrs128p w i d => exact load xrs128pOps .xrs128p xrs128pOps_lawful w i d fun _ => rfl
  | nextXrs128p w i d => exact next xrs128pOps .xrs128p xrs128pOps_lawful w i d fun _ => rfl
  | readXrs128p w i d => exact read xrs128pOps .xrs128p xrs128pOps_lawful w i d fun _ => rfl
  | eqXrs128p w i i2 d => exact eq xrs128pOps .xrs128p xrs128pOps_lawful w i i2 d fun _ => rfl
  | loadXsh256pp w i d => exact load xsh256ppOps .xsh256pp xsh256ppOps_lawful w i d fun _ => rfl
  | nextXsh256pp w i d => exact next xsh256ppOps .xsh256pp xsh256ppOps_lawful w i d fun _ => rfl
  | readXsh256pp w i d => exact read xsh256ppOps .xsh256pp xsh256ppOps_lawful w i d fun _ => rfl
  | eqXsh256pp w i i2 d => exact eq xsh256ppOps .xsh256pp xsh256ppOps_lawful w i i2 d fun _ => rfl

/-- Every family has lawful operations, and `exec` of its four commands is the shared operation over them. -/
theorem exists_lawful (f : Family) :
    ∃ (α : Type) (_ : DecidableEq α) (F : FamilyOps α), F.Lawful f ∧
      (∀ w i d s, exec (.loadOf f w i d) s = loadUnit F w i d s) ∧
      (∀ w i d s, exec (.nextOf f w i d) s = nextUnit F w i d s) ∧
      (∀ w i d s, exec (.readOf f w i d) s = readUnit F w i d s) ∧
      ∀ w i i2 d s, exec (.eqOf f w i i2 d) s = eqUnits F w i i2 d s := by
  cases f with
  | ss =>
    exact ⟨_, inferInstance, ssOps, ssOps_lawful, fun _ _ _ _ => rfl, fun _ _ _ _ => rfl,
      fun _ _ _ _ => rfl, fun _ _ _ _ _ => rfl⟩
  | xs64 =>
    exact ⟨_, inferInstance, xs64Ops, xs64Ops_lawful, fun _ _ _ _ => rfl, fun _ _ _ _ => rfl,
      fun _ _ _ _ => rfl, fun _ _ _ _ _ => rfl⟩
  | xs128p =>
    exact ⟨_, inferInstance, xs128pOps, xs128pOps_lawful, fun _ _ _ _ => rfl,
      fun _ _ _ _ => rfl, fun _ _ _ _ => rfl, fun _ _ _ _ _ => rfl⟩
  | xrs128p =>
    exact ⟨_, inferInstance, xrs128pOps, xrs128pOps_lawful, fun _ _ _ _ => rfl,
      fun _ _ _ _ => rfl, fun _ _ _ _ => rfl, fun _ _ _ _ _ => rfl⟩
  | xsh256pp =>
    exact ⟨_, inferInstance, xsh256ppOps, xsh256ppOps_lawful, fun _ _ _ _ => rfl,
      fun _ _ _ _ => rfl, fun _ _ _ _ => rfl, fun _ _ _ _ _ => rfl⟩

section fields

variable (f : Family) (w : Width) (i i2 : Inst) (d : List Word)

@[simp] theorem Instr.loadOf_op : (Instr.loadOf f w i d).op = .load := by cases f <;> rfl
@[simp] theorem Instr.loadOf_family : (Instr.loadOf f w i d).family = f := by cases f <;> rfl
@[simp] theorem Instr.loadOf_width : (Instr.loadOf f w i d).width = w := by cases f <;> rfl
@[simp] theorem Instr.loadOf_inst : (Instr.loadOf f w i d).inst = i := by cases f <;> rfl
@[simp] theorem Instr.loadOf_inst2 : (Instr.loadOf f w i d).inst2 = 0 := by cases f <;> rfl
@[simp] theorem Instr.loadOf_data : (Instr.loadOf f w i d).data = d := by cases f <;> rfl
@[simp] theorem Instr.loadOf_insts : (Instr.loadOf f w i d).insts = [i] := by cases f <;> rfl

@[simp] theorem Instr.nextOf_op : (Instr.nextOf f w i d).op = .next := by cases f <;> rfl
@[simp] theorem Instr.nextOf_family : (Instr.nextOf f w i d).family = f := by cases f <;> rfl
@[simp] theorem Instr.nextOf_width : (Instr.nextOf f w i d).width = w := by cases f <;> rfl
@[simp] theorem Instr.nextOf_inst : (Instr.nextOf f w i d).inst = i := by cases f <;> rfl
@[simp] theorem Instr.nextOf_inst2 : (Instr.nextOf f w i d).inst2 = 0 := by cases f <;> rfl
@[simp] theorem Instr.nextOf_data : (Instr.nextOf f w i d).data = d := by cases f <;> rfl
@[simp] theorem Instr.nextOf_insts : (Instr.nextOf f w i d).insts = [i] := by cases f <;> rfl

@[simp] theorem Instr.readOf_op : (Instr.readOf f w i d).op = .read := by cases f <;> rfl
@[simp] theorem Instr.readOf_family : (Instr.readOf f w i d).family = f := by cases f <;> rfl
@[simp] theorem Instr.readOf_width : (Instr.readOf f w i d).width = w := by cases f <;> rfl
@[simp] theorem Instr.readOf_inst : (Instr.readOf f w i d).inst = i := by cases f <;> rfl
@[simp] theorem Instr.readOf_inst2 : (Instr.readOf f w i d).inst2 = 0 := by cases f <;> rfl
@[simp] theorem Instr.readOf_data : (Instr.readOf f w i d).data = d := by cases f <;> rfl
@[simp] theorem Instr.readOf_insts : (Instr.readOf f w i d).insts = [i] := by cases f <;> rfl

@[simp] theorem Instr.eqOf_op : (Instr.eqOf f w i i2 d).op = .eq := by cases f <;> rfl
@[simp] theorem Instr.eqOf_family : (Instr.eqOf f w i i2 d).family = f := by cases f <;> rfl
@[simp] theorem Instr.eqOf_width : (Instr.eqOf f w i i2 d).width = w := by cases f <;> rfl
@[simp] theorem Instr.eqOf_inst : (Instr.eqOf f w i i2 d).inst = i := by cases f <;> rfl
@[simp] theorem Instr.eqOf_inst2 : (Instr.eqOf f w i i2 d).inst2 = i2 := by cases f <;> rfl
@[simp] theorem Instr.eqOf_data : (Instr.eqOf f w i i2 d).data = d := by cases f <;> rfl
@[simp] theorem Instr.eqOf_insts : (Instr.eqOf f w i i2 d).insts = [i, i2] := by cases f <;> rfl

end fields

end Sys2Proof.Machine
end

