-- ==== Sys2Proof/Laws/PerInstr.lean ====
section
/-! SUPPORT. One lemma for each constructor: the encoder's word, under the row's mask, is the row's match. The
masks and matches are those of opcode_table.json, so this holds the encoder against the table. -/

namespace Sys2Proof.Laws

open Sys2Proof

theorem width_and_mask (w : Width) (m : CommandWord) (h : m &&& 0xC0 = 0) :
    (BitVec.ofNat 32 w.code <<< 6) &&& m = 0 := by
  have e : BitVec.ofNat 32 w.code <<< 6 = (BitVec.ofNat 32 w.code <<< 6) &&& 0xC0 := by
    cases w <;> decide
  rw [e, BitVec.and_assoc, BitVec.and_comm 0xC0, h]
  exact BitVec.and_zero

theorem inst_and_mask (i : Inst) (m : CommandWord) (h : m &&& 0xF00 = 0) :
    (BitVec.ofNat 32 i.val <<< 8) &&& m = 0 := by
  have e : BitVec.ofNat 32 i.val <<< 8 = (BitVec.ofNat 32 i.val <<< 8) &&& 0xF00 := by
    revert i; decide
  rw [e, BitVec.and_assoc, BitVec.and_comm 0xF00, h]
  exact BitVec.and_zero

theorem inst2_and_mask (i : Inst) (m : CommandWord) (h : m &&& 0xF000 = 0 ∨ i = 0) :
    (BitVec.ofNat 32 i.val <<< 12) &&& m = 0 := by
  rcases h with h | rfl
  · have e : BitVec.ofNat 32 i.val <<< 12 = (BitVec.ofNat 32 i.val <<< 12) &&& 0xF000 := by
      revert i; decide
    rw [e, BitVec.and_assoc, BitVec.and_comm 0xF000, h]
    exact BitVec.and_zero
  · simp

/-- A row's word under a mask that leaves out its free fields is the row's fixed bits under the mask. -/
theorem rowWord_and_mask (fixed m : CommandWord) (w : Width) (i i2 : Inst) (hw : m &&& 0xC0 = 0)
    (hi : m &&& 0xF00 = 0) (hi2 : m &&& 0xF000 = 0 ∨ i2 = 0) :
    rowWord fixed w i i2 &&& m = fixed &&& m := by
  have d : ∀ a b : CommandWord, (a ||| b) &&& m = a &&& m ||| b &&& m := by
    intro a b
    ext k
    simp only [BitVec.getElem_and, BitVec.getElem_or, Bool.and_or_distrib_right]
  rw [rowWord, d, d, d, width_and_mask w m hw, inst_and_mask i m hi, inst2_and_mask i2 m hi2]
  exact (BitVec.or_zero).trans ((BitVec.or_zero).trans BitVec.or_zero)

/-- The row of opcode_table.json under which an instruction stands: its match and its mask. -/
def MatchesItsRow.row : Instr → CommandWord × CommandWord
  | .loadSs _ _ _ => (0x00000000, 0xFFFFF03F)
  | .nextSs _ _ _ => (0x00000001, 0xFFFFF03F)
  | .readSs _ _ _ => (0x00000002, 0xFFFFF03F)
  | .eqSs _ _ _ _ => (0x00000003, 0xFFFF003F)
  | .loadXs64 _ _ _ => (0x00000008, 0xFFFFF03F)
  | .nextXs64 _ _ _ => (0x00000009, 0xFFFFF03F)
  | .readXs64 _ _ _ => (0x0000000A, 0xFFFFF03F)
  | .eqXs64 _ _ _ _ => (0x0000000B, 0xFFFF003F)
  | .loadXs128p _ _ _ => (0x00000010, 0xFFFFF03F)
  | .nextXs128p _ _ _ => (0x00000011, 0xFFFFF03F)
  | .readXs128p _ _ _ => (0x00000012, 0xFFFFF03F)
  | .eqXs128p _ _ _ _ => (0x00000013, 0xFFFF003F)
  | .loadXrs128p _ _ _ => (0x00000018, 0xFFFFF03F)
  | .nextXrs128p _ _ _ => (0x00000019, 0xFFFFF03F)
  | .readXrs128p _ _ _ => (0x0000001A, 0xFFFFF03F)
  | .eqXrs128p _ _ _ _ => (0x0000001B, 0xFFFF003F)
  | .loadXsh256pp _ _ _ => (0x00000020, 0xFFFFF03F)
  | .nextXsh256pp _ _ _ => (0x00000021, 0xFFFFF03F)
  | .readXsh256pp _ _ _ => (0x00000022, 0xFFFFF03F)
  | .eqXsh256pp _ _ _ _ => (0x00000023, 0xFFFF003F)

/-- The encoder's word lies in the instruction's row. -/
def MatchesItsRow.Statement (c : Instr) : Prop :=
  (encode c).cmd &&& (MatchesItsRow.row c).2 = (MatchesItsRow.row c).1

theorem MatchesItsRow.loadSs (w : Width) (i : Inst) (d : List Word) :
    Statement (.loadSs w i d) :=
  rowWord_and_mask 0x00000000 0xFFFFF03F w i 0 (by decide) (by decide) (.inr rfl)

theorem MatchesItsRow.nextSs (w : Width) (i : Inst) (d : List Word) :
    Statement (.nextSs w i d) :=
  rowWord_and_mask 0x00000001 0xFFFFF03F w i 0 (by decide) (by decide) (.inr rfl)

theorem MatchesItsRow.readSs (w : Width) (i : Inst) (d : List Word) :
    Statement (.readSs w i d) :=
  rowWord_and_mask 0x00000002 0xFFFFF03F w i 0 (by decide) (by decide) (.inr rfl)

theorem MatchesItsRow.eqSs (w : Width) (i i2 : Inst) (d : List Word) :
    Statement (.eqSs w i i2 d) :=
  rowWord_and_mask 0x00000003 0xFFFF003F w i i2 (by decide) (by decide) (.inl (by decide))

theorem MatchesItsRow.loadXs64 (w : Width) (i : Inst) (d : List Word) :
    Statement (.loadXs64 w i d) :=
  rowWord_and_mask 0x00000008 0xFFFFF03F w i 0 (by decide) (by decide) (.inr rfl)

theorem MatchesItsRow.nextXs64 (w : Width) (i : Inst) (d : List Word) :
    Statement (.nextXs64 w i d) :=
  rowWord_and_mask 0x00000009 0xFFFFF03F w i 0 (by decide) (by decide) (.inr rfl)

theorem MatchesItsRow.readXs64 (w : Width) (i : Inst) (d : List Word) :
    Statement (.readXs64 w i d) :=
  rowWord_and_mask 0x0000000A 0xFFFFF03F w i 0 (by decide) (by decide) (.inr rfl)

theorem MatchesItsRow.eqXs64 (w : Width) (i i2 : Inst) (d : List Word) :
    Statement (.eqXs64 w i i2 d) :=
  rowWord_and_mask 0x0000000B 0xFFFF003F w i i2 (by decide) (by decide) (.inl (by decide))

theorem MatchesItsRow.loadXs128p (w : Width) (i : Inst) (d : List Word) :
    Statement (.loadXs128p w i d) :=
  rowWord_and_mask 0x00000010 0xFFFFF03F w i 0 (by decide) (by decide) (.inr rfl)

theorem MatchesItsRow.nextXs128p (w : Width) (i : Inst) (d : List Word) :
    Statement (.nextXs128p w i d) :=
  rowWord_and_mask 0x00000011 0xFFFFF03F w i 0 (by decide) (by decide) (.inr rfl)

theorem MatchesItsRow.readXs128p (w : Width) (i : Inst) (d : List Word) :
    Statement (.readXs128p w i d) :=
  rowWord_and_mask 0x00000012 0xFFFFF03F w i 0 (by decide) (by decide) (.inr rfl)

theorem MatchesItsRow.eqXs128p (w : Width) (i i2 : Inst) (d : List Word) :
    Statement (.eqXs128p w i i2 d) :=
  rowWord_and_mask 0x00000013 0xFFFF003F w i i2 (by decide) (by decide) (.inl (by decide))

theorem MatchesItsRow.loadXrs128p (w : Width) (i : Inst) (d : List Word) :
    Statement (.loadXrs128p w i d) :=
  rowWord_and_mask 0x00000018 0xFFFFF03F w i 0 (by decide) (by decide) (.inr rfl)

theorem MatchesItsRow.nextXrs128p (w : Width) (i : Inst) (d : List Word) :
    Statement (.nextXrs128p w i d) :=
  rowWord_and_mask 0x00000019 0xFFFFF03F w i 0 (by decide) (by decide) (.inr rfl)

theorem MatchesItsRow.readXrs128p (w : Width) (i : Inst) (d : List Word) :
    Statement (.readXrs128p w i d) :=
  rowWord_and_mask 0x0000001A 0xFFFFF03F w i 0 (by decide) (by decide) (.inr rfl)

theorem MatchesItsRow.eqXrs128p (w : Width) (i i2 : Inst) (d : List Word) :
    Statement (.eqXrs128p w i i2 d) :=
  rowWord_and_mask 0x0000001B 0xFFFF003F w i i2 (by decide) (by decide) (.inl (by decide))

theorem MatchesItsRow.loadXsh256pp (w : Width) (i : Inst) (d : List Word) :
    Statement (.loadXsh256pp w i d) :=
  rowWord_and_mask 0x00000020 0xFFFFF03F w i 0 (by decide) (by decide) (.inr rfl)

theorem MatchesItsRow.nextXsh256pp (w : Width) (i : Inst) (d : List Word) :
    Statement (.nextXsh256pp w i d) :=
  rowWord_and_mask 0x00000021 0xFFFFF03F w i 0 (by decide) (by decide) (.inr rfl)

theorem MatchesItsRow.readXsh256pp (w : Width) (i : Inst) (d : List Word) :
    Statement (.readXsh256pp w i d) :=
  rowWord_and_mask 0x00000022 0xFFFFF03F w i 0 (by decide) (by decide) (.inr rfl)

theorem MatchesItsRow.eqXsh256pp (w : Width) (i i2 : Inst) (d : List Word) :
    Statement (.eqXsh256pp w i i2 d) :=
  rowWord_and_mask 0x00000023 0xFFFF003F w i i2 (by decide) (by decide) (.inl (by decide))

end Sys2Proof.Laws
end

