-- ==== Sys2Proof/Machine/Assembler.lean ====
section
/-! DEFINITION. The text of a command (30_encoding.md R69). Syntax only, no effect on behaviour (D26): the
width and the instance are always written, data words in hexadecimal (log 16). -/

namespace Sys2Proof.Machine

/-- `<fam>` (R69). -/
def familyAsm : Family → String
  | .ss => "ss"
  | .xs64 => "xs64"
  | .xs128p => "xs128p"
  | .xrs128p => "xrs128p"
  | .xsh256pp => "xsh256pp"

/-- `"[" <i> "]"` (R69). -/
def instAsm (i : Inst) : String := "[" ++ Nat.repr i.val ++ "]"

/-- `<unit>` (R69). -/
def unitAsm (c : Instr) : String :=
  familyAsm c.family ++ ".w" ++ Nat.repr c.width.lanes ++ instAsm c.inst

/-- `, d_0, d_1, ...` (R69). -/
def dataAsm (d : List Word) : String :=
  d.foldl (fun t x => t ++ ", 0x" ++ String.ofList (Nat.toDigits 16 x.toNat)) ""

/-- A command as R69 writes it. Only LOAD has data words in that syntax: the text of a NEXT, READ or EQ whose
request carries some (it is answered ERR_LENGTH) does not show them. -/
def asm (c : Instr) : String :=
  match c.op with
  | .load => "load " ++ unitAsm c ++ dataAsm c.data
  | .next => "next " ++ unitAsm c
  | .read => "read " ++ unitAsm c
  | .eq => "eq " ++ unitAsm c ++ ", " ++ instAsm c.inst2

end Sys2Proof.Machine
end

