-- ==== Sys2Proof/Tests/Slice0.lean ====
section
/-! SUPPORT. Tests. Expected values are the spec's: the encodings of R56 to R68 written out bit by bit, and the
vectors T<n> and programs P<n> of 95_test_vectors.md. Last, for every statement with hypotheses, a witness
that meets them. -/

namespace Sys2Proof.Tests

open Sys2Proof Sys2Proof.Machine Sys2Proof.Statements

/-! ### Helpers -/

/-- All ones. -/
def ones : Word := 0xFFFFFFFFFFFFFFFF

/-- The state an outcome goes on in. -/
def after (o : Host.Outcome State Fault Refusal) : Option State :=
  match o with
  | .next t => some t
  | .fault _ => none
  | .refused _ => none

/-- The last response of an outcome. -/
def answer (o : Host.Outcome State Fault Refusal) : Option Response :=
  (after o).bind fun t => t.responses.getLast?

/-- The last response of an outcome and what it leaves in a unit. -/
def answerAndUnit (o : Host.Outcome State Fault Refusal) (f : Family) (w : Width) (i : Inst) :
    Option (Response × UnitView) :=
  (after o).bind fun t => t.responses.getLast?.map fun a => (a, t.unit f w i)

/-- In every family: width 1 instance 0 holds a corner case, width 2 instance 0 the lanes of T32 to T35, and
width 2 instance 1 the same lanes but for the last word of lane 1. -/
def two : State :=
  { State.reset with
    ss := [⟨.w1, 0, ⟨true, [0x61C8864680B583EB]⟩⟩, ⟨.w2, 0, ⟨true, [1, ones]⟩⟩,
      ⟨.w2, 1, ⟨true, [1, 0]⟩⟩]
    xs64 := [⟨.w1, 0, ⟨true, [ones]⟩⟩, ⟨.w2, 0, ⟨true, [1, 0x2545F4914F6CDD1D]⟩⟩,
      ⟨.w2, 1, ⟨true, [1, 0x2545F4914F6CDD1C]⟩⟩]
    xs128p := [⟨.w1, 0, ⟨true, [⟨ones, ones⟩]⟩⟩,
      ⟨.w2, 0, ⟨true, [⟨1, 2⟩, ⟨0x0123456789ABCDEF, 0xFEDCBA9876543210⟩]⟩⟩,
      ⟨.w2, 1, ⟨true, [⟨1, 2⟩, ⟨0x0123456789ABCDEF, 0xFEDCBA9876543211⟩]⟩⟩]
    xrs128p := [⟨.w1, 0, ⟨true, [⟨ones, 1⟩]⟩⟩,
      ⟨.w2, 0, ⟨true, [⟨1, 2⟩, ⟨0x0123456789ABCDEF, 0xFEDCBA9876543210⟩]⟩⟩,
      ⟨.w2, 1, ⟨true, [⟨1, 2⟩, ⟨0x0123456789ABCDEF, 0xFEDCBA9876543211⟩]⟩⟩]
    xsh256pp := [⟨.w1, 0, ⟨true, [⟨0x0000C00000000007, 0x40005, 0x40005, 0x18000000⟩]⟩⟩,
      ⟨.w2, 0, ⟨true, [⟨1, 2, 3, 4⟩, ⟨1, 0, 0, 0⟩]⟩⟩,
      ⟨.w2, 1, ⟨true, [⟨1, 2, 3, 4⟩, ⟨1, 0, 0, 1⟩]⟩⟩] }

/-- A block with `WIDTHS_PRESENT` = {1, 2}, as in P3 and T79. -/
def narrow : State := { State.reset with params := ⟨true, false, false, 1⟩ }

/-- `s` with these inputs on its port. -/
def sent (s : State) (is : List Input) : State := { s with inputs := is }

/-! ### WellFormed refuses -/

theorem test_load_short_data_is_ill_formed :
    (Instr.loadXs128p .w2 0 [1, 2, 3]).wellFormed = false := by decide

theorem test_load_long_data_is_ill_formed :
    (Instr.loadXs64 .w1 0 [1, 2]).wellFormed = false := by decide

theorem test_next_with_data_is_ill_formed :
    (Instr.nextXs64 .w1 0 [5]).wellFormed = false := by decide

theorem test_read_with_data_is_ill_formed :
    (Instr.readSs .w8 1 [0]).wellFormed = false := by decide

theorem test_eq_with_data_is_ill_formed :
    (Instr.eqXsh256pp .w1 0 1 [1]).wellFormed = false := by decide

theorem test_well_formed_accepts :
    (Instr.loadXs128p .w2 0 [1, 2, 3, 4]).wellFormed = true ∧
      (Instr.nextXs64 .w1 0 []).wellFormed = true := by decide

/-! ### Decoding: RSV, INST2, INST, WC, FAM, OP written out (R56 to R60), one word for each constructor -/

theorem test_decode_load_ss :
    decode ⟨0b0000000000000000_0000_0001_00_000_000, [7]⟩ =
      .ok (.loadSs .w1 1 [7]) := rfl

theorem test_decode_next_ss :
    decode ⟨0b0000000000000000_0000_0110_01_000_001, [7]⟩ =
      .ok (.nextSs .w2 6 [7]) := rfl

theorem test_decode_read_ss :
    decode ⟨0b0000000000000000_0000_1011_10_000_010, [7]⟩ =
      .ok (.readSs .w4 11 [7]) := rfl

theorem test_decode_eq_ss :
    decode ⟨0b0000000000000000_1001_0000_11_000_011, [7]⟩ =
      .ok (.eqSs .w8 0 9 [7]) := rfl

theorem test_decode_load_xs64 :
    decode ⟨0b0000000000000000_0000_0100_01_001_000, [7]⟩ =
      .ok (.loadXs64 .w2 4 [7]) := rfl

theorem test_decode_next_xs64 :
    decode ⟨0b0000000000000000_0000_1001_10_001_001, [7]⟩ =
      .ok (.nextXs64 .w4 9 [7]) := rfl

theorem test_decode_read_xs64 :
    decode ⟨0b0000000000000000_0000_1110_11_001_010, [7]⟩ =
      .ok (.readXs64 .w8 14 [7]) := rfl

theorem test_decode_eq_xs64 :
    decode ⟨0b0000000000000000_0000_0011_00_001_011, [7]⟩ =
      .ok (.eqXs64 .w1 3 0 [7]) := rfl

theorem test_decode_load_xs128p :
    decode ⟨0b0000000000000000_0000_0111_10_010_000, [7]⟩ =
      .ok (.loadXs128p .w4 7 [7]) := rfl

theorem test_decode_next_xs128p :
    decode ⟨0b0000000000000000_0000_1100_11_010_001, [7]⟩ =
      .ok (.nextXs128p .w8 12 [7]) := rfl

theorem test_decode_read_xs128p :
    decode ⟨0b0000000000000000_0000_0001_00_010_010, [7]⟩ =
      .ok (.readXs128p .w1 1 [7]) := rfl

theorem test_decode_eq_xs128p :
    decode ⟨0b0000000000000000_0111_0110_01_010_011, [7]⟩ =
      .ok (.eqXs128p .w2 6 7 [7]) := rfl

theorem test_decode_load_xrs128p :
    decode ⟨0b0000000000000000_0000_1010_11_011_000, [7]⟩ =
      .ok (.loadXrs128p .w8 10 [7]) := rfl

theorem test_decode_next_xrs128p :
    decode ⟨0b0000000000000000_0000_1111_00_011_001, [7]⟩ =
      .ok (.nextXrs128p .w1 15 [7]) := rfl

theorem test_decode_read_xrs128p :
    decode ⟨0b0000000000000000_0000_0100_01_011_010, [7]⟩ =
      .ok (.readXrs128p .w2 4 [7]) := rfl

theorem test_decode_eq_xrs128p :
    decode ⟨0b0000000000000000_1110_1001_10_011_011, [7]⟩ =
      .ok (.eqXrs128p .w4 9 14 [7]) := rfl

theorem test_decode_load_xsh256pp :
    decode ⟨0b0000000000000000_0000_1101_00_100_000, [7]⟩ =
      .ok (.loadXsh256pp .w1 13 [7]) := rfl

theorem test_decode_next_xsh256pp :
    decode ⟨0b0000000000000000_0000_0010_01_100_001, [7]⟩ =
      .ok (.nextXsh256pp .w2 2 [7]) := rfl

theorem test_decode_read_xsh256pp :
    decode ⟨0b0000000000000000_0000_0111_10_100_010, [7]⟩ =
      .ok (.readXsh256pp .w4 7 [7]) := rfl

theorem test_decode_eq_xsh256pp :
    decode ⟨0b0000000000000000_0101_1100_11_100_011, [7]⟩ =
      .ok (.eqXsh256pp .w8 12 5 [7]) := rfl

/-! ### Decoding: what is refused, by name (T70 to T76; R44) -/

theorem test_reserved_op_is_refused :
    decode ⟨0x00000007, []⟩ = .error .reservedOp ∧
      decode ⟨0x00000004, []⟩ = .error .reservedOp := ⟨rfl, rfl⟩

theorem test_reserved_family_is_refused :
    decode ⟨0x00000029, []⟩ = .error .reservedFamily ∧
      decode ⟨0x00000039, []⟩ = .error .reservedFamily := ⟨rfl, rfl⟩

theorem test_reserved_bits_are_refused :
    decode ⟨0x00010008, [1]⟩ = .error .reservedBits ∧
      decode ⟨0x80000009, []⟩ = .error .reservedBits := ⟨rfl, rfl⟩

theorem test_second_instance_on_next_is_refused :
    decode ⟨0x00001009, []⟩ = .error .secondInstanceOutsideEq := rfl

theorem test_partial_bus_transfers_are_refused :
    decodeBytes [8, 0, 0] = .error .shortCommand ∧
      decodeBytes [8, 0, 0, 0, 1] = .error .partialDataWord := ⟨rfl, rfl⟩

theorem test_bus_bytes_are_little_endian :
    decodeBytes [0x89, 0x01, 0, 0, 0x1D, 0xDD, 0x6C, 0x4F, 0x91, 0xF4, 0x45, 0x25] =
      .ok (.nextXs64 .w4 1 [0x2545F4914F6CDD1D]) := rfl

/-- The table gives LOAD 32 bits; its data words are zeros (log 11). -/
theorem test_table_word_decodes :
    decodeTableWord 32 0x00000050 = some (.loadXs128p .w2 0 [0, 0, 0, 0]) ∧
      decodeTableWord 32 0x0000100B = some (.eqXs64 .w1 0 1 []) ∧
      decodeTableWord 32 0x00000007 = none := by decide

theorem test_fetched_table_word_runs_first :
    answerAndUnit (step (State.reset.withFetchWord 32 0x00000040)) .ss .w2 0 =
      some (⟨.ok, []⟩, ⟨true, [[0], [0]]⟩) := by decide

/-! ### LOAD (R80, R90, R100, R110, R120; word-major order R62) -/

theorem test_load_ss :
    answerAndUnit (exec (.loadSs .w2 1 [1, 2]) two) .ss .w2 1 =
      some (⟨.ok, []⟩, ⟨true, [[1], [2]]⟩) := by decide

theorem test_load_xs64 :
    answerAndUnit (exec (.loadXs64 .w2 1 [1, 2]) two) .xs64 .w2 1 =
      some (⟨.ok, []⟩, ⟨true, [[1], [2]]⟩) := by decide

theorem test_load_xs128p :
    answerAndUnit (exec (.loadXs128p .w2 1 [0xA, 0xB, 0xC, 0xD]) two) .xs128p .w2 1 =
      some (⟨.ok, []⟩, ⟨true, [[0xA, 0xC], [0xB, 0xD]]⟩) := by decide

theorem test_load_xrs128p :
    answerAndUnit (exec (.loadXrs128p .w2 1 [0xA, 0xB, 0xC, 0xD]) two) .xrs128p .w2 1 =
      some (⟨.ok, []⟩, ⟨true, [[0xA, 0xC], [0xB, 0xD]]⟩) := by decide

theorem test_load_xsh256pp :
    answerAndUnit (exec (.loadXsh256pp .w2 1 [1, 1, 2, 0, 3, 0, 4, 0]) two) .xsh256pp .w2 1 =
      some (⟨.ok, []⟩, ⟨true, [[1, 2, 3, 4], [1, 0, 0, 0]]⟩) := by decide

/-! ### NEXT: T35, T30, T32 to T34, then T4, T12, T24, T56, T69 -/

theorem test_next_ss_two_lanes :
    answerAndUnit (exec (.nextSs .w2 0 []) two) .ss .w2 0 =
      some (⟨.ok, [0x910A2DEC89025CC1, 0xE4D971771B652C20]⟩,
        ⟨true, [[0x9E3779B97F4A7C16], [0x9E3779B97F4A7C14]]⟩) := by decide

theorem test_next_ss_corner :
    answerAndUnit (exec (.nextSs .w1 0 []) two) .ss .w1 0 =
      some (⟨.ok, [0]⟩,
        ⟨true, [[0]]⟩) := by decide

theorem test_next_xs64_two_lanes :
    answerAndUnit (exec (.nextXs64 .w2 0 []) two) .xs64 .w2 0 =
      some (⟨.ok, [0x0000000000042021, 0xE12582707453F83A]⟩,
        ⟨true, [[0x0000000000042021], [0xE12582707453F83A]]⟩) := by decide

theorem test_next_xs64_corner :
    answerAndUnit (exec (.nextXs64 .w1 0 []) two) .xs64 .w1 0 =
      some (⟨.ok, [0x000000000003E01F]⟩,
        ⟨true, [[0x000000000003E01F]]⟩) := by decide

theorem test_next_xs128p_two_lanes :
    answerAndUnit (exec (.nextXs128p .w2 0 []) two) .xs128p .w2 0 =
      some (⟨.ok, [0x0000000000800005, 0x4B180FF4632C169A]⟩,
        ⟨true, [[2, 0x0000000000800003], [0xFEDCBA9876543210, 0x4C3B555BECD7E48A]]⟩) := by decide

theorem test_next_xs128p_corner :
    answerAndUnit (exec (.nextXs128p .w1 0 []) two) .xs128p .w1 0 =
      some (⟨.ok, [0xFFFF8000007FFFFE]⟩,
        ⟨true, [[ones, 0xFFFF8000007FFFFF]]⟩) := by decide

theorem test_next_xrs128p_two_lanes :
    answerAndUnit (exec (.nextXrs128p .w2 0 []) two) .xrs128p .w2 0 =
      some (⟨.ok, [3, ones]⟩,
        ⟨true, [[0x0000000001030003, 0x0000006000000000], [0x6789ABCDEF01DCBA, ones]]⟩) := by decide

theorem test_next_xrs128p_corner :
    answerAndUnit (exec (.nextXrs128p .w1 0 []) two) .xrs128p .w1 0 =
      some (⟨.ok, [0]⟩,
        ⟨true, [[0xFFFFFFFFFFFE0001, 0xFFFFFFDFFFFFFFFF]]⟩) := by decide

theorem test_next_xsh256pp_two_lanes :
    answerAndUnit (exec (.nextXsh256pp .w2 0 []) two) .xsh256pp .w2 0 =
      some (⟨.ok, [0x0000000001800001, 0x0000000000800001]⟩,
        ⟨true, [[7, 0, 0x0000000000040002, 0x0000C00000000000], [1, 1, 1, 0]]⟩) := by decide

theorem test_next_xsh256pp_corner :
    answerAndUnit (exec (.nextXsh256pp .w1 0 []) two) .xsh256pp .w1 0 =
      some (⟨.ok, [0x0000C20006000067]⟩,
        ⟨true, [[0x0000C00018040002, 0x0000C00000000007, 0x0000C008000E0002, 0x8000A00000000300]]⟩) := by decide

/-! ### READ (R130, word-major order) and EQ (R131: one word of one lane differs; self-comparison T45) -/

theorem test_read_ss :
    answer (exec (.readSs .w2 0 []) two) = some ⟨.ok, [1, ones]⟩ := by decide

theorem test_read_xs64 :
    answer (exec (.readXs64 .w2 0 []) two) = some ⟨.ok, [1, 0x2545F4914F6CDD1D]⟩ := by decide

theorem test_read_xs128p :
    answer (exec (.readXs128p .w2 0 []) two) = some ⟨.ok, [1, 0x0123456789ABCDEF, 2, 0xFEDCBA9876543210]⟩ := by decide

theorem test_read_xrs128p :
    answer (exec (.readXrs128p .w2 0 []) two) = some ⟨.ok, [1, 0x0123456789ABCDEF, 2, 0xFEDCBA9876543210]⟩ := by decide

theorem test_read_xsh256pp :
    answer (exec (.readXsh256pp .w2 0 []) two) = some ⟨.ok, [1, 1, 2, 0, 3, 0, 4, 0]⟩ := by decide

theorem test_eq_ss :
    answer (exec (.eqSs .w2 0 1 []) two) = some ⟨.ok, [0]⟩ ∧
      answer (exec (.eqSs .w2 1 1 []) two) = some ⟨.ok, [1]⟩ := by decide

theorem test_eq_xs64 :
    answer (exec (.eqXs64 .w2 0 1 []) two) = some ⟨.ok, [0]⟩ ∧
      answer (exec (.eqXs64 .w2 1 1 []) two) = some ⟨.ok, [1]⟩ := by decide

theorem test_eq_xs128p :
    answer (exec (.eqXs128p .w2 0 1 []) two) = some ⟨.ok, [0]⟩ ∧
      answer (exec (.eqXs128p .w2 1 1 []) two) = some ⟨.ok, [1]⟩ := by decide

theorem test_eq_xrs128p :
    answer (exec (.eqXrs128p .w2 0 1 []) two) = some ⟨.ok, [0]⟩ ∧
      answer (exec (.eqXrs128p .w2 1 1 []) two) = some ⟨.ok, [1]⟩ := by decide

theorem test_eq_xsh256pp :
    answer (exec (.eqXsh256pp .w2 0 1 []) two) = some ⟨.ok, [0]⟩ ∧
      answer (exec (.eqXsh256pp .w2 1 1 []) two) = some ⟨.ok, [1]⟩ := by decide

/-! ### Statuses of requests (T77 to T90), from the state after reset -/

/-- The status and data a request gets. -/
def statusOf (s : State) (cmd : CommandWord) (d : List Word) : Option Response :=
  answer (step (sent s [.request ⟨cmd, d⟩]))

theorem test_absent_instance :
    statusOf State.reset 0x00000208 [1] = some ⟨.errAbsent, []⟩ ∧
      statusOf State.reset 0x0000200B [] = some ⟨.errAbsent, []⟩ := by decide

theorem test_absent_width :
    statusOf narrow 0x00000088 [1, 2, 3, 4] = some ⟨.errAbsent, []⟩ := by decide

theorem test_wrong_length :
    statusOf State.reset 0x00000008 [1, 2] = some ⟨.errLength, []⟩ ∧
      statusOf State.reset 0x00000060 [1, 2, 3, 4] = some ⟨.errLength, []⟩ := by decide

theorem test_unseeded :
    statusOf State.reset 0x00000009 [] = some ⟨.errUnseeded, []⟩ ∧
      statusOf State.reset 0x0000000A [] = some ⟨.errUnseeded, []⟩ ∧
      statusOf { State.reset with xs64 := [⟨.w1, 0, ⟨true, [1]⟩⟩] } 0x0000100B [] =
        some ⟨.errUnseeded, []⟩ := by decide

theorem test_priority :
    statusOf State.reset 0x00000009 [5] = some ⟨.errLength, []⟩ ∧
      statusOf State.reset 0x00010209 [5] = some ⟨.errIllegal, []⟩ ∧
      statusOf State.reset 0x00000209 [5] = some ⟨.errAbsent, []⟩ := by decide

theorem test_zero_seed_accepted :
    statusOf State.reset 0x00000008 [0] = some ⟨.ok, []⟩ := by decide

/-! ### Reset, pseudo-commands, text -/

theorem test_reset_clears_the_units :
    (after (step (sent two [.reset]))).map (fun t => (t.unit .xsh256pp .w2 0, t.responses)) =
      some (⟨false, []⟩, []) := by decide

/-- P1. -/
theorem test_seed_of_program_P1 :
    answerAndUnit (seed .xs128p .w1 0 0
        { State.reset with ss := [⟨.w1, 0, ⟨true, [0]⟩⟩] }) .xs128p .w1 0 =
      some (⟨.ok, []⟩, ⟨true, [[0xE220A8397B1DCDAF, 0x6E789E6AA1B965F4]]⟩) := by decide

/-- E2. -/
theorem test_loadb_replicates :
    loadb .xs128p .w4 0 [1, 2] = .loadXs128p .w4 0 [1, 1, 1, 1, 2, 2, 2, 2] := rfl

theorem test_text_of_a_command :
    asm (.eqXs64 .w2 0 1 []) = "eq xs64.w2[0], [1]" := by decide

/-! ### Witnesses: for every statement with hypotheses, a state and operands that meet them -/

/-- The request `next xs64`. -/
def nextReq : Request := ⟨0x00000009, []⟩

theorem witness_ResetEventClearsEveryUnit :
    (sent two [.reset]).inputs = .reset :: [] := rfl

theorem witness_ResetInFlightLeavesTheSameBlockEitherWay :
    (sent two [.resetInFlight nextReq]).inputs = .resetInFlight nextReq :: [] := rfl

theorem witness_StepRunsTheDecodedCommand :
    (sent two [.request nextReq]).inputs = .request nextReq :: [] ∧
      decode nextReq = .ok (.nextXs64 .w1 0 []) := ⟨rfl, rfl⟩

theorem witness_StepWithNothingOnThePortChangesNothing : two.inputs = [] := rfl

theorem witness_EveryRequestGetsExactlyOneResponse :
    (sent two [.request nextReq, .reset]).inputs = .request nextReq :: [.reset] := rfl

theorem witness_QueuedRequestsAreAnsweredInOrder :
    (sent two [.request nextReq, .request ⟨7, []⟩, .reset]).inputs =
      [nextReq, ⟨7, []⟩].map .request ++ [.reset] := rfl

/-- One word for each way to be illegal, at the lowest reserved value, and the highest. -/
theorem witness_illegal :
    ((0x00010008 : CommandWord).extractLsb 31 16).toNat ≠ 0 ∧
      ((0x80000009 : CommandWord).extractLsb 31 16).toNat ≠ 0 ∧
      ((0x00000004 : CommandWord).extractLsb 2 0).toNat = 4 ∧
      ((0x00000007 : CommandWord).extractLsb 2 0).toNat = 7 ∧
      ((0x00000028 : CommandWord).extractLsb 5 3).toNat = 5 ∧
      ((0x00000038 : CommandWord).extractLsb 5 3).toNat = 7 ∧
      ((0x00001009 : CommandWord).extractLsb 15 12).toNat = 1 ∧
      ((0x00001009 : CommandWord).extractLsb 2 0).toNat = 1 := by decide

theorem witness_ReservedEncodingsAnswerErrIllegal :
    (sent two [.request ⟨0x00001009, [5]⟩]).inputs = .request ⟨0x00001009, [5]⟩ :: [] ∧
      ((0x00001009 : CommandWord).extractLsb 15 12).toNat ≠ 0 ∧
      ((0x00001009 : CommandWord).extractLsb 2 0).toNat ≠ 3 := ⟨rfl, by decide, by decide⟩

/-- `eq xs64.w2[1], [1]` with and without data: the last clauses of the procedure; INST = INST2 = 1 is the
last instance present, 2 the first absent one. -/
theorem witness_StepFollowsTheProcedure :
    (sent two [.request ⟨0x0000114B, []⟩]).inputs = .request ⟨0x0000114B, []⟩ :: [] ∧
      ((0x0000114B : CommandWord).extractLsb 31 16).toNat = 0 ∧
      opCode .eq = ((0x0000114B : CommandWord).extractLsb 2 0).toNat ∧
      famCode .xs64 = ((0x0000114B : CommandWord).extractLsb 5 3).toNat ∧
      Width.lanes .w2 = 2 ^ ((0x0000114B : CommandWord).extractLsb 7 6).toNat ∧
      (1 : Inst).val = ((0x0000114B : CommandWord).extractLsb 11 8).toNat ∧
      (1 : Inst).val = ((0x0000114B : CommandWord).extractLsb 15 12).toNat ∧
      widthPresent two.params .w2 = true ∧ (1 : Inst).val < instanceCount two.params ∧
      two.isSeeded .xs64 .w2 1 = true ∧ State.reset.isSeeded .xs64 .w2 1 = false ∧
      widthPresent narrow.params .w4 = false ∧ instanceCount two.params ≤ (2 : Inst).val :=
  ⟨rfl, by decide⟩

theorem witness_DecoderAcceptsExactlyTheOpcodeMap :
    Op.load ≠ .eq ∧ (0 : Inst) = 0 ∧ (0x00000FD8 : CommandWord) &&& 0xFFFFF03F = mapWord .load .xrs128p ∧
      (0x0000FFDB : CommandWord) &&& 0xFFFF003F = mapWord .eq .xrs128p := by decide

theorem witness_DecodedFieldsAreThoseOfTheWord :
    ((0x0000FFE3 : CommandWord).extractLsb 31 16).toNat = 0 ∧
      ((0x0000FFE3 : CommandWord).extractLsb 2 0).toNat = 3 ∧
      ((0x0000FFE3 : CommandWord).extractLsb 5 3).toNat = 4 ∧
      decode ⟨0x0000FFDB, [1]⟩ = .ok (.eqXrs128p .w8 15 15 [1]) := ⟨rfl, rfl, rfl, rfl⟩

theorem witness_EncodeOfDecodeIsTheRequest :
    decode ⟨0x00000FDA, []⟩ = .ok (.readXrs128p .w8 15 []) := rfl

theorem witness_BusBytesAreLittleEndian : ([5, 7] : List Word)[1]? = some 7 := rfl

/-- The units of instance 1 are the last that exist, those of instance 2 the first that do not. -/
theorem witness_existence :
    unitsExist two.params .w2 [1] = true ∧ unitsExist two.params .w2 [2] = false ∧
      unitsExist two.params .w8 [0, 1] = true ∧ unitsExist two.params .w8 [0, 2] = false ∧
      unitsExist narrow.params .w2 [0] = true ∧ unitsExist narrow.params .w4 [0] = false := by decide

theorem witness_LoadSsConstructsTheUnit :
    unitsExist two.params .w2 [2] = false ∧ unitsExist two.params .w2 [1] = true ∧
      (Instr.loadSs .w2 1 [1]).data.length ≠ Width.lanes .w2 ∧
      ([1, 2] : List Word).length = Family.ss.wordCount * Width.lanes .w2 := by decide

theorem witness_LoadXs64ConstructsTheUnit :
    unitsExist two.params .w2 [2] = false ∧ unitsExist two.params .w2 [1] = true ∧
      (Instr.loadXs64 .w2 1 [1]).data.length ≠ Width.lanes .w2 ∧
      ([1, 2] : List Word).length = Family.xs64.wordCount * Width.lanes .w2 := by decide

theorem witness_LoadXs128pConstructsTheUnit :
    unitsExist two.params .w2 [2] = false ∧ unitsExist two.params .w2 [1] = true ∧
      (Instr.loadXs128p .w2 1 [1, 2, 3]).data.length ≠ 2 * Width.lanes .w2 ∧
      ([1, 2, 3, 4] : List Word).length = Family.xs128p.wordCount * Width.lanes .w2 := by decide

theorem witness_LoadXrs128pConstructsTheUnit :
    unitsExist two.params .w2 [2] = false ∧ unitsExist two.params .w2 [1] = true ∧
      (Instr.loadXrs128p .w2 1 [1, 2, 3]).data.length ≠ 2 * Width.lanes .w2 ∧
      ([1, 2, 3, 4] : List Word).length = Family.xrs128p.wordCount * Width.lanes .w2 := by decide

theorem witness_LoadXsh256ppConstructsTheUnit :
    unitsExist two.params .w1 [2] = false ∧ unitsExist two.params .w1 [1] = true ∧
      (Instr.loadXsh256pp .w1 1 [1, 2, 3]).data.length ≠ 4 * Width.lanes .w1 ∧
      ([1, 2, 3, 4] : List Word).length = Family.xsh256pp.wordCount * Width.lanes .w1 := by decide

/-- What every clause of a command that reads the unit (f, .w2, 1) asks for. -/
def ReadingWitness (f : Family) : Prop :=
  unitsExist two.params .w2 [2] = false ∧ unitsExist two.params .w2 [1] = true ∧
    State.reset.isSeeded f .w2 1 = false ∧ two.WellFormed ∧ two.isSeeded f .w2 1 = true

theorem witness_NextSsStepsEveryLane :
    ReadingWitness .ss ∧ (Instr.nextSs .w2 1 [5]).data ≠ [] := by unfold ReadingWitness; decide

theorem witness_NextXs64StepsEveryLane :
    ReadingWitness .xs64 ∧ (Instr.nextXs64 .w2 1 [5]).data ≠ [] := by unfold ReadingWitness; decide

theorem witness_NextXs128pStepsEveryLane :
    ReadingWitness .xs128p ∧ (Instr.nextXs128p .w2 1 [5]).data ≠ [] := by
  unfold ReadingWitness; decide

theorem witness_NextXrs128pStepsEveryLane :
    ReadingWitness .xrs128p ∧ (Instr.nextXrs128p .w2 1 [5]).data ≠ [] := by
  unfold ReadingWitness; decide

theorem witness_NextXsh256ppStepsEveryLane :
    ReadingWitness .xsh256pp ∧ (Instr.nextXsh256pp .w2 1 [5]).data ≠ [] := by
  unfold ReadingWitness; decide

theorem witness_ReadReturnsEveryStateWord (f : Family) :
    ReadingWitness f ∧ (Instr.readOf f .w2 1 [5]).data ≠ [] := by
  unfold ReadingWitness; cases f <;> decide

/-- Equal words (a unit with itself) and words that differ. -/
theorem witness_EqComparesEveryStateWord (f : Family) :
    ReadingWitness f ∧ two.isSeeded f .w2 0 = true ∧ unitsExist two.params .w2 [0, 1] = true ∧
      (∀ j < f.wordCount, ∀ k < Width.lanes .w2, two.word? f .w2 1 j k = two.word? f .w2 1 j k) ∧
      ¬(∀ j < f.wordCount, ∀ k < Width.lanes .w2,
        two.word? f .w2 0 j k = two.word? f .w2 1 j k) := by
  unfold ReadingWitness; cases f <;> decide

/-- One request for each clause: illegal, absent, wrong length, unseeded, OK. -/
theorem witness_StatusIsTheFirstFailingCheck :
    decode ⟨7, []⟩ = .error .reservedOp ∧ decode ⟨0x209, []⟩ = .ok (.nextXs64 .w1 2 []) ∧
      decode nextReq = .ok (.nextXs64 .w1 0 []) ∧ unitsExist two.params .w1 [2] = false ∧
      unitsExist two.params .w1 [0] = true ∧ [5].length ≠ (Instr.nextXs64 .w1 0 []).dataCount ∧
      nextReq.data.length = (Instr.nextXs64 .w1 0 []).dataCount ∧
      State.reset.isSeeded .xs64 .w1 0 = false ∧ two.isSeeded .xs64 .w1 0 = true :=
  ⟨rfl, rfl, rfl, by decide⟩

theorem witness_ErrorsChangeNothing :
    ∃ t, step (sent two [.request ⟨7, []⟩]) = .next t ∧
      t.responses = two.responses ++ [⟨.errIllegal, []⟩] ∧ Status.errIllegal ≠ .ok :=
  ⟨_, rfl, rfl, by decide⟩

theorem witness_AbsentUnitsAnswerErrAbsentAndPresentOnesIgnoreTheRest :
    widthPresent narrow.params .w8 = false ∧ instanceCount two.params ≤ (2 : Inst).val ∧
      unitsExist two.params .w2 [1] = true ∧ unitsExist narrow.params .w2 [1] = true := by decide

theorem witness_DataLengthsAreFixed :
    two.WellFormed ∧ unitsExist two.params .w2 [0] = true ∧
      (Instr.readXs128p .w2 0 [1]).data.length ≠ 0 ∧
      (∃ t, exec (.readXs128p .w2 0 []) two = .next t ∧ t.responses = two.responses ++
        [⟨.ok, [1, 0x0123456789ABCDEF, 2, 0xFEDCBA9876543210]⟩]) ∧
      ∃ t, exec (.readXs128p .w2 0 [1]) two = .next t ∧
        t.responses = two.responses ++ [⟨.errLength, []⟩] :=
  ⟨by decide, by decide, by decide, ⟨_, rfl, by decide⟩, ⟨_, rfl, by decide⟩⟩

theorem witness_CommandsWriteOnlyTheirOwnUnit :
    (∃ t, exec (.nextXs64 .w1 0 []) two = .next t) ∧
      ∃ t, exec (.eqXs64 .w2 0 1 []) two = .next t ∧ (Instr.eqXs64 .w2 0 1 []).op = .eq :=
  ⟨⟨_, rfl⟩, ⟨_, rfl, rfl⟩⟩

/-- A LOAD that sets the flag, a reset that clears it, and a NEXT that finds it clear. -/
theorem witness_SeededIsWrittenOnlyByLoadAndReset :
    (∃ t, step (sent State.reset [.request ⟨8, [1]⟩]) = .next t ∧
      State.reset.isSeeded .xs64 .w1 0 = false ∧ t.isSeeded .xs64 .w1 0 = true ∧
      AnswersOk State.reset t []) ∧
    decode ⟨8, [1]⟩ = .ok (.loadOf .xs64 .w1 0 [1]) ∧
    (∃ t, step (sent two [.reset]) = .next t ∧ two.isSeeded .xs64 .w1 0 = true ∧
      t.isSeeded .xs64 .w1 0 = false) ∧
    (∃ t, step (sent State.reset [.request nextReq]) = .next t) ∧
    decode nextReq = .ok (.nextXs64 .w1 0 []) ∧ (Instr.nextXs64 .w1 0 []).op ≠ .load ∧
    unitsExist State.reset.params .w1 [0] = true :=
  ⟨⟨_, rfl, by decide, by decide, rfl⟩, rfl, ⟨_, rfl, by decide, by decide⟩, ⟨_, rfl⟩, rfl,
    by decide, by decide⟩

theorem witness_NoStepChangesTheParameters : ∃ t, step (sent two [.reset]) = .next t := ⟨_, rfl⟩

theorem witness_RepeatingAnythingButNextChangesNothingMore :
    (Instr.loadXs64 .w1 0 [1]).op ≠ .next ∧ ∃ t, exec (.loadXs64 .w1 0 [1]) two = .next t :=
  ⟨by decide, ⟨_, rfl⟩⟩

/-- Two states that agree on `xs64.w2[0]` and differ elsewhere. -/
theorem witness_AnswersDependOnlyOnTheNamedSeededUnits :
    two.params = { two with ss := [] }.params ∧ two ≠ { two with ss := [] } ∧
      (∀ i ∈ (Instr.nextXs64 .w2 0 []).insts,
        two.isSeeded .xs64 .w2 i = { two with ss := [] }.isSeeded .xs64 .w2 i ∧
          (two.isSeeded .xs64 .w2 i = true →
            two.unit .xs64 .w2 i = { two with ss := [] }.unit .xs64 .w2 i)) := by decide

theorem witness_EveryStepKeepsTheCanonicalForm :
    (sent two [.request nextReq]).WellFormed ∧
      ∃ t, step (sent two [.request nextReq]) = .next t := ⟨by decide, ⟨_, rfl⟩⟩

theorem witness_SeededExactlyWhenTheWordsHaveValues :
    two.WellFormed ∧ two.isSeeded .xsh256pp .w2 1 = true ∧
      (two.word? .xsh256pp .w2 1 3 1).isSome = true ∧
      (two.word? .xsh256pp .w1 1 0 0).isSome = false := by decide

theorem witness_LanesOfAPackedRegister :
    two.WellFormed ∧ two.isSeeded .xs128p .w2 0 = true ∧ 1 < Family.xs128p.wordCount ∧
      1 < Width.lanes .w2 := by decide

theorem witness_RotateIsCircular : 1 ≤ 63 ∧ 63 ≤ 63 ∧ 0 < 64 := by decide

theorem witness_SeedSpreaderStateLaw :
    two.WellFormed ∧ unitsExist two.params .w2 [1] = true ∧ two.isSeeded .ss .w2 1 = true ∧
      1 < Width.lanes .w2 := by decide

/-- XSH256PP units of width 2 whose lane 0 is all zero and whose lane 1 is not. -/
def halfZero : State :=
  { State.reset with xsh256pp := [⟨.w2, 0, ⟨true, [⟨0, 0, 0, 0⟩, ⟨0, 0, 1, 0⟩]⟩⟩] }

theorem witness_ZeroXorshiftLanesStayZero :
    Family.xsh256pp ≠ .ss ∧ halfZero.WellFormed ∧ unitsExist halfZero.params .w2 [0] = true ∧
      halfZero.isSeeded .xsh256pp .w2 0 = true ∧
      ∀ j < Family.xsh256pp.wordCount, halfZero.word? .xsh256pp .w2 0 j 0 = some 0 := by decide

theorem witness_ZeroSeedsAreAcceptedAndStayZero :
    Family.xs64 ≠ .ss ∧ unitsExist two.params .w8 [1] = true := by decide

theorem witness_NonZeroXs64LanesStayNonZero :
    (∃ t, exec (.nextXs64 .w2 0 []) two = .next t) ∧
      two.word? .xs64 .w2 0 0 1 = some 0x2545F4914F6CDD1D ∧
      (0x2545F4914F6CDD1D : Word) ≠ 0 := ⟨⟨_, rfl⟩, by decide⟩

theorem witness_NonZeroXs128pLanesStayNonZero :
    (∃ t, exec (.nextXs128p .w2 0 []) two = .next t) ∧ two.word? .xs128p .w2 0 0 0 = some 1 ∧
      two.word? .xs128p .w2 0 1 0 = some 2 ∧ ((1, 2) : Word × Word) ≠ (0, 0) :=
  ⟨⟨_, rfl⟩, by decide⟩

theorem witness_NonZeroXrs128pLanesStayNonZero :
    (∃ t, exec (.nextXrs128p .w2 0 []) two = .next t) ∧ two.word? .xrs128p .w2 0 0 0 = some 1 ∧
      two.word? .xrs128p .w2 0 1 0 = some 2 ∧ ((1, 2) : Word × Word) ≠ (0, 0) :=
  ⟨⟨_, rfl⟩, by decide⟩

theorem witness_NonZeroXsh256ppLanesStayNonZero :
    (∃ t, exec (.nextXsh256pp .w2 0 []) halfZero = .next t) ∧
      (∀ j < 4, halfZero.word? .xsh256pp .w2 0 j 1 = (⟨0, 0, 1, 0⟩ : Lane4).words[j]?) ∧
      (⟨0, 0, 1, 0⟩ : Lane4) ≠ ⟨0, 0, 0, 0⟩ := ⟨⟨_, rfl⟩, by decide⟩

theorem witness_ReadAfterNextXs64ReturnsTheOutputs :
    unitsExist two.params .w2 [1] = true ∧ two.isSeeded .xs64 .w2 1 = true := by decide

theorem witness_ReadAfterLoadReturnsTheLoadedWords :
    unitsExist two.params .w2 [1] = true ∧
      ([1, 2, 3, 4] : List Word).length = Family.xs128p.wordCount * Width.lanes .w2 := by decide

theorem witness_LaneEquivalence :
    unitsExist two.params .w2 [1] = true ∧ unitsExist State.reset.params .w1 [0] = true ∧
      1 < Width.lanes .w2 ∧
      ∀ c ∈ UnitCommand.load [1, 2, 3, 4] :: [.next, .load [5, 6, 7, 8], .next],
        c.LengthOk .xs128p .w2 := by
  refine ⟨by decide, by decide, by decide, ?_⟩
  intro c hc
  fin_cases hc <;> simp [UnitCommand.LengthOk, Family.wordCount, Width.lanes]

theorem witness_EquallySteppedUnitsCompareEqual :
    unitsExist two.params .w2 [0, 1] = true ∧
      ([1, 2, 3, 4] : List Word).length = Family.xs128p.wordCount * Width.lanes .w2 ∧
      [true, false, false, true].count true = [true, false, false, true].count false := by decide

/-- A seeded SeedSpreader, one that is not seeded, and one that does not exist. -/
theorem witness_SeedConstructsFromTheSeedSpreader :
    two.WellFormed ∧ unitsExist two.params .w2 [1] = true ∧ two.isSeeded .ss .w2 1 = true ∧
      unitsExist two.params .w1 [1] = true ∧ two.isSeeded .ss .w1 1 = false ∧
      unitsExist two.params .w1 [2] = false := by decide

theorem witness_LoadbPutsTheSameSeedInEveryLane :
    unitsExist two.params .w8 [1] = true ∧
      ([1, 2] : List Word).length = Family.xrs128p.wordCount := by decide

end Sys2Proof.Tests
end

section
/-! ### Scope: the rotate (00_scope.md R14) -/

namespace Sys2Proof.Machine

/-- The two ranges of `rotl_getLsbD` as one index: below k the bit comes from the top of the word, and from
k on the index `b + (64 - k)` has gone once round the 64. -/
theorem rotl_getLsbD_mod (x : Word) {k b : Nat} (hk : k ≤ 64) (hb : b < 64) :
    (rotl x k).getLsbD b = x.getLsbD ((b + (64 - k)) % 64) := by
  rw [rotl_getLsbD x hk hb]
  split
  · next hlow =>
    have hindex : (b + (64 - k)) % 64 = 64 - k + b := by omega
    rw [hindex]
  · next hhigh =>
    have hindex : (b + (64 - k)) % 64 = b - k := by omega
    rw [hindex]

/-- Settles O45: the formula is the definition of `rotl`, and the circular reading is `rotl_getLsbD_mod`. -/
theorem rotateIsCircular : Obligations.RotateIsCircular :=
  fun x _ _ hk => ⟨rfl, fun _ hb => rotl_getLsbD_mod x (by omega) hb⟩

end Sys2Proof.Machine
end

section
/-! ### State: the reset values (10_state.md R33, R34) -/

namespace Sys2Proof.Machine

variable (s : State) (f : Family) (w : Width) (i : Inst)

@[simp] theorem State.resetUnits_isSeeded : s.resetUnits.isSeeded f w i = false := by
  simp [State.isSeeded, State.resetUnits_unit]

@[simp] theorem State.resetUnits_word? (j k : Nat) : s.resetUnits.word? f w i j k = none := by
  simp [State.word?, State.resetUnits_unit]

/-- Settles O1: the state after reset is itself one whose units have all been reset. -/
theorem resetLeavesNoUnitSeededAndNoWord : Obligations.ResetLeavesNoUnitSeededAndNoWord :=
  fun f w i => ⟨State.resetUnits_isSeeded .reset f w i, State.resetUnits_word? .reset f w i⟩

end Sys2Proof.Machine
end

section
/-! ### State: the packed registers (10_state.md R22) -/

namespace Sys2Proof.Machine

theorem packLanes_lt (xs : List Word) : packLanes xs < 2 ^ (64 * xs.length) := by
  induction xs with
  | nil => simp [packLanes]
  | cons x rest ih =>
    have hx := x.isLt
    rw [packLanes, List.length_cons, Nat.mul_succ, Nat.pow_add]
    omega

/-- Dividing by `2 ^ (64 * k)` drops the k least significant lanes. -/
theorem packLanes_div (xs : List Word) (k : Nat) :
    packLanes xs / 2 ^ (64 * k) = packLanes (xs.drop k) := by
  induction k generalizing xs with
  | zero => simp
  | succ k ih =>
    cases xs with
    | nil => simp [packLanes]
    | cons x rest =>
      have hx := x.isLt
      have hlane : packLanes (x :: rest) / 2 ^ 64 = packLanes rest := by
        rw [packLanes]
        omega
      rw [Nat.mul_succ, Nat.add_comm, Nat.pow_add, ← Nat.div_div_eq_div_mul, hlane, ih,
        List.drop_succ_cons]

theorem packLanes_mod (x : Word) (rest : List Word) :
    packLanes (x :: rest) % 2 ^ 64 = x.toNat := by
  have hx := x.isLt
  rw [packLanes]
  omega

/-- Lane k of a list of words is bits `[64k+63 : 64k]` of its packed form. -/
theorem getElem?_eq_extractLsb'_packLanes (xs : List Word) {W k : Nat} (hW : xs.length = W)
    (hk : k < W) :
    xs[k]? = some ((BitVec.ofNat (64 * W) (packLanes xs)).extractLsb' (64 * k) 64) := by
  subst hW
  rw [List.getElem?_eq_getElem hk, Option.some_inj, eq_comm]
  apply BitVec.eq_of_toNat_eq
  rw [BitVec.extractLsb'_toNat, BitVec.toNat_ofNat, Nat.mod_eq_of_lt (packLanes_lt xs),
    Nat.shiftRight_eq_div_pow, packLanes_div, List.drop_eq_getElem_cons hk, packLanes_mod]

/-- Word j of every lane, where every lane has a word j. -/
theorem filterMap_getElem?_eq_map {lanes : List (List Word)} {j : Nat}
    (h : ∀ l ∈ lanes, j < l.length) :
    lanes.filterMap (·[j]?) = lanes.map (·.getD j 0) := by
  rw [← List.filterMap_eq_map]
  refine List.filterMap_congr fun l hl => ?_
  simp [h l hl]

/-- In canonical form a seeded unit holds W lanes of m(f) words (R21). -/
theorem State.WellFormed.unit_shape {s : State} (hs : s.WellFormed) {f : Family} {w : Width}
    {i : Inst} (h : s.isSeeded f w i = true) :
    (s.unit f w i).lanes.length = w.lanes ∧ ∀ l ∈ (s.unit f w i).lanes, l.length = f.wordCount := by
  obtain ⟨α, -, F, L, -⟩ := exists_lawful f
  rw [L.isSeeded_eq] at h
  rw [L.unit_eq]
  refine ⟨?_, fun l hl => ?_⟩
  · rw [UnitRegs.view, List.length_map]
    exact Bank.lanes_length _ _ _ (L.wellFormed_bank s hs) h
  · obtain ⟨a, -, rfl⟩ := List.mem_map.mp hl
    rw [L.words_length, L.wordCount_eq]

/-- Settles O43: the words j of the lanes are a list of W words, and `getElem?_eq_extractLsb'_packLanes` finds
lane k of it in its packed form. -/
theorem lanesOfAPackedRegister : Obligations.LanesOfAPackedRegister := by
  intro s hs f w i hseeded j hj k hk
  obtain ⟨hlength, hwords⟩ := State.WellFormed.unit_shape hs hseeded
  have hlong : ∀ l ∈ (s.unit f w i).lanes, j < l.length := fun l hl => by rwa [hwords l hl]
  have hk' : k < (s.unit f w i).lanes.length := by rwa [hlength]
  rw [State.packedRegister, filterMap_getElem?_eq_map hlong,
    ← getElem?_eq_extractLsb'_packLanes _ (by rw [List.length_map, hlength]) hk]
  simp [State.word?, hk', hlong _ (List.getElem_mem hk')]

end Sys2Proof.Machine
end

section
/-! ### State: the frame of every command (10_state.md R29) -/

namespace Sys2Proof.Machine

open Sys2Proof.Statements

theorem onlyUnit_answer (s : State) (f : Family) (w : Width) (i : Inst) (st : Status)
    (d : List Word) : OnlyUnit f w i s (s.answer st d) :=
  ⟨fun _ _ _ _ => rfl, rfl, rfl, rfl⟩

/-- What storing a seeded unit and answering OK leaves. -/
theorem FamilyOps.Lawful.store_answer_ok {α : Type} {F : FamilyOps α} {f : Family}
    (L : F.Lawful f) (s : State) (w : Width) (i : Inst) (lanes : List α) (d : List Word) :
    let t := (F.setBank s (Bank.store (F.bank s) w i ⟨true, lanes⟩)).answer .ok d
    AnswersOk s t d ∧ OnlyUnit f w i s t ∧ t.isSeeded f w i = true := by
  refine ⟨?_, ⟨fun _ _ _ h => L.unit_store_other s w i _ h, L.params_setBank _ _,
    L.inputs_setBank _ _, L.draws_setBank _ _⟩, ?_⟩
  · rw [AnswersOk, State.answer_responses, L.responses_setBank]
  · rw [State.isSeeded, State.answer_unit, L.unit_store_same]
    rfl

/-- READ answers and does nothing else. -/
theorem readUnit_eq_answer {α : Type} (F : FamilyOps α) (w : Width) (i : Inst) (d : List Word)
    (s : State) : ∃ st out, readUnit F w i d s = .next (s.answer st out) := by
  obtain ⟨e, -, h⟩ | ⟨-, -, -, h⟩ := FamilyOps.Lawful.readUnit_eq F w i d s
  · exact ⟨_, _, h⟩
  · exact ⟨_, _, h⟩

/-- EQ answers and does nothing else. -/
theorem eqUnits_eq_answer {α : Type} [DecidableEq α] (F : FamilyOps α) (w : Width) (i i2 : Inst)
    (d : List Word) (s : State) : ∃ st out, eqUnits F w i i2 d s = .next (s.answer st out) := by
  obtain ⟨e, -, h⟩ | ⟨-, -, -, -, h⟩ := FamilyOps.Lawful.eqUnits_eq F w i i2 d s
  · exact ⟨_, _, h⟩
  · exact ⟨_, _, h⟩

/-- What one command can do to the state: answer and write no unit, or, for LOAD and NEXT, answer OK with
SEEDED set in the addressed unit and no other unit written. A NEXT that writes found SEEDED set. -/
theorem exec_cases (c : Instr) (s : State) :
    (∃ st out, exec c s = .next (s.answer st out) ∧ (c.op = .load → st ≠ .ok)) ∨
    ∃ t out, exec c s = .next t ∧ AnswersOk s t out ∧ OnlyUnit c.family c.width c.inst s t ∧
      t.isSeeded c.family c.width c.inst = true ∧
      (c = .loadOf c.family c.width c.inst c.data ∧ out = [] ∨
        c.op = .next ∧ s.isSeeded c.family c.width c.inst = true) := by
  induction c using instr_induction with
  | load F f L w i d hexec =>
    rw [hexec]
    obtain ⟨e, he, h⟩ | ⟨-, -, h⟩ := L.loadUnit_eq w i d s
    · exact .inl ⟨e, [], h, fun _ => by rintro rfl; exact firstError_ne_ok he⟩
    · obtain ⟨hok, hframe, hset⟩ := L.store_answer_ok s w i (F.ofData w.lanes d) []
      exact .inr ⟨_, [], h, hok, by simpa using hframe, by simpa using hset, .inl (by simp)⟩
  | next F f L w i d hexec =>
    rw [hexec]
    obtain ⟨e, -, h⟩ | ⟨-, -, hseeded, h⟩ := FamilyOps.Lawful.nextUnit_eq F w i d s
    · exact .inl ⟨e, [], h, by simp⟩
    · obtain ⟨hok, hframe, hset⟩ := L.store_answer_ok s w i
        ((Bank.unitAt (F.bank s) w i).lanes.map fun l => (F.next l).1)
        ((Bank.unitAt (F.bank s) w i).lanes.map fun l => (F.next l).2)
      exact .inr ⟨_, _, h, hok, by simpa using hframe, by simpa using hset,
        .inr (by simp [L.isSeeded_eq, hseeded])⟩
  | read F f L w i d hexec =>
    obtain ⟨st, out, h⟩ := readUnit_eq_answer F w i d s
    exact .inl ⟨st, out, by rw [hexec, h], by simp⟩
  | eq F f L w i i2 d hexec =>
    obtain ⟨st, out, h⟩ := eqUnits_eq_answer F w i i2 d s
    exact .inl ⟨st, out, by rw [hexec, h], by simp⟩

/-- Settles O35, by the two things `exec_cases` says a command can do. -/
theorem commandsWriteOnlyTheirOwnUnit : Obligations.CommandsWriteOnlyTheirOwnUnit := by
  intro c s t ht
  obtain ⟨st, out, h, -⟩ | ⟨t', out, h, hok, hframe, -, hop⟩ := exec_cases c s
  · obtain rfl : s.answer st out = t := by simpa [h] using ht
    exact ⟨onlyUnit_answer .., fun _ _ _ _ => rfl, _, rfl⟩
  · obtain rfl : t' = t := by simpa [h] using ht
    refine ⟨hframe, fun hread => ?_, _, hok⟩
    obtain ⟨hload, -⟩ | ⟨hnext, -⟩ := hop
    · rw [hload] at hread
      simp at hread
    · simp [hnext] at hread

end Sys2Proof.Machine
end

section
/-! ### State: what writes and reads SEEDED (10_state.md R23) -/

namespace Sys2Proof.Machine

open Sys2Proof.Statements

variable {s t : State} {r : Request} {rest : List Input} {c : Instr}

/-! #### One step, by what stands first on the port -/

theorem step_of_nil (h : s.inputs = []) : step s = .next s := by simp [step, takeInput, h]

theorem step_of_decoded (h : s.inputs = .request r :: rest) (hc : decode r = .ok c) :
    step s = exec c { s with inputs := rest } := by
  simp [step, takeInput, h, serveInput, performRequest, hc]

theorem step_of_illegal {e : DecodeError} (h : s.inputs = .request r :: rest)
    (he : decode r = .error e) :
    step s = .next (({ s with inputs := rest } : State).answer .errIllegal []) := by
  simp [step, takeInput, h, serveInput, performRequest, he, raise, respond]

/-- A reset, with or without a request in flight, leaves every unit as after reset. -/
theorem step_of_reset (h : s.inputs = .reset :: rest ∨ ∃ r, s.inputs = .resetInFlight r :: rest)
    (ht : step s = .next t) : ∃ u : State, t = u.resetUnits := by
  obtain h | ⟨r, h⟩ := h
  · simp only [step, takeInput, h, serveInput, Host.Outcome.next.injEq] at ht
    exact ⟨_, ht.symm⟩
  · simp only [step, takeInput, h, serveInput, resetInFlight] at ht
    split at ht
    · split at ht
      · exact ⟨_, (Host.Outcome.next.inj ht).symm⟩
      · cases ht
      · cases ht
    · exact ⟨_, (Host.Outcome.next.inj ht).symm⟩

/-! #### SEEDED under one command -/

/-- A LOAD that is answered OK leaves SEEDED set in its unit. -/
theorem isSeeded_of_load_ok {f : Family} {w : Width} {i : Inst} {d : List Word}
    (ht : exec (.loadOf f w i d) s = .next t) (hok : AnswersOk s t []) :
    t.isSeeded f w i = true := by
  obtain ⟨st, out, h, hst⟩ | ⟨t', out, h, -, -, hseeded, -⟩ := exec_cases (.loadOf f w i d) s
  · obtain rfl : s.answer st out = t := by simpa [h] using ht
    have hstatus : st = .ok ∧ out = [] := by simpa [AnswersOk] using hok
    exact absurd hstatus.1 (hst (by simp))
  · obtain rfl : t' = t := by simpa [h] using ht
    simpa using hseeded

/-- A command leaves SEEDED as it is, but for a LOAD answered OK, which sets it in its own unit. -/
theorem isSeeded_exec (ht : exec c s = .next t) (f : Family) (w : Width) (i : Inst) :
    t.isSeeded f w i = s.isSeeded f w i ∨
      t.isSeeded f w i = true ∧ ∃ d, c = .loadOf f w i d ∧ AnswersOk s t [] := by
  obtain ⟨st, out, h, -⟩ | ⟨t', out, h, hok, ⟨hother, -⟩, hseeded, hop⟩ := exec_cases c s
  · obtain rfl : s.answer st out = t := by simpa [h] using ht
    exact .inl rfl
  · obtain rfl : t' = t := by simpa [h] using ht
    by_cases hu : (f, w, i) = (c.family, c.width, c.inst)
    · obtain ⟨rfl, rfl, rfl⟩ : f = c.family ∧ w = c.width ∧ i = c.inst := by simpa using hu
      obtain ⟨hload, rfl⟩ | ⟨-, hbefore⟩ := hop
      · exact .inr ⟨hseeded, _, hload, hok⟩
      · exact .inl (hseeded.trans hbefore.symm)
    · exact .inl (congrArg UnitView.seeded (hother f w i hu))

/-- One unit with SEEDED clear fails the check of R64, part 4. -/
theorem Bank.allSeeded_eq_false {α : Type} {b : Bank α} {w : Width} {is : List Inst} {i : Inst}
    (hi : i ∈ is) (h : (Bank.unitAt b w i).seeded = false) : Bank.allSeeded b w is = false :=
  List.all_eq_false.mpr ⟨i, hi, by simp [h]⟩

/-- NEXT, READ and EQ without data answer ERR_UNSEEDED when a unit they name exists with SEEDED clear. -/
theorem exec_unseeded {i : Inst} (hop : c.op ≠ .load) (hi : i ∈ c.insts)
    (hexist : unitsExist s.params c.width c.insts = true) (hdata : c.data = [])
    (hclear : s.isSeeded c.family c.width i = false) :
    exec c s = .next (s.answer .errUnseeded []) := by
  induction c using instr_induction with
  | load F f L w i' d hexec => simp at hop
  | next F f L w i' d hexec =>
    simp only [Instr.nextOf_insts, Instr.nextOf_width, Instr.nextOf_data, Instr.nextOf_family,
      L.isSeeded_eq] at hi hexist hdata hclear
    subst hdata
    rw [hexec, nextUnit, List.length_nil,
      firstError_unseeded hexist (Bank.allSeeded_eq_false hi hclear)]
    rfl
  | read F f L w i' d hexec =>
    simp only [Instr.readOf_insts, Instr.readOf_width, Instr.readOf_data, Instr.readOf_family,
      L.isSeeded_eq] at hi hexist hdata hclear
    subst hdata
    rw [hexec, readUnit, List.length_nil,
      firstError_unseeded hexist (Bank.allSeeded_eq_false hi hclear)]
    rfl
  | eq F f L w i' i2 d hexec =>
    simp only [Instr.eqOf_insts, Instr.eqOf_width, Instr.eqOf_data, Instr.eqOf_family,
      L.isSeeded_eq] at hi hexist hdata hclear
    subst hdata
    rw [hexec, eqUnits, List.length_nil,
      firstError_unseeded hexist (Bank.allSeeded_eq_false hi hclear)]
    rfl

/-! #### SEEDED under one step -/

/-- A step that changes SEEDED of a unit takes a LOAD of it, which is answered OK and sets the flag, or takes
a reset. -/
theorem isSeeded_step (ht : step s = .next t) (f : Family) (w : Width) (i : Inst) :
    t.isSeeded f w i = s.isSeeded f w i ∨
    (t.isSeeded f w i = true ∧ ∃ r rest d, s.inputs = .request r :: rest ∧
      decode r = .ok (.loadOf f w i d) ∧ AnswersOk s t []) ∨
    (t.isSeeded f w i = false ∧
      ∃ rest, s.inputs = .reset :: rest ∨ ∃ r, s.inputs = .resetInFlight r :: rest) := by
  match hin : s.inputs with
  | [] =>
    obtain rfl : s = t := by simpa [step_of_nil hin] using ht
    exact .inl rfl
  | .request r :: rest =>
    cases hc : decode r with
    | error e =>
      rw [step_of_illegal hin hc, Host.Outcome.next.injEq] at ht
      subst ht
      exact .inl rfl
    | ok c =>
      rw [step_of_decoded hin hc] at ht
      obtain hsame | ⟨hset, d, rfl, hok⟩ := isSeeded_exec ht f w i
      · exact .inl hsame
      · exact .inr (.inl ⟨hset, r, rest, d, rfl, hc, hok⟩)
  | .reset :: rest =>
    obtain ⟨u, rfl⟩ := step_of_reset (.inl hin) ht
    exact .inr (.inr ⟨u.resetUnits_isSeeded f w i, rest, .inl rfl⟩)
  | .resetInFlight r :: rest =>
    obtain ⟨u, rfl⟩ := step_of_reset (.inr ⟨r, hin⟩) ht
    exact .inr (.inr ⟨u.resetUnits_isSeeded f w i, rest, .inr ⟨r, rfl⟩⟩)

/-- Settles O36: the two transitions are `isSeeded_step`, and the other three clauses are what a reset, a LOAD
answered OK and a command that finds the flag clear do. -/
theorem seededIsWrittenOnlyByLoadAndReset : Obligations.SeededIsWrittenOnlyByLoadAndReset := by
  intro s t f w i ht
  refine ⟨fun hbefore hafter => ?set, fun hbefore hafter => ?clear, fun rest r hin => ?reset,
    fun r rest d hin hc hok => ?load, fun r rest c hin hc hop hf hw hi hexist hdata hclear => ?read⟩
  case set =>
    obtain h | ⟨-, hload⟩ | ⟨h, -⟩ := isSeeded_step ht f w i
    · simp [hbefore, hafter] at h
    · exact hload
    · simp [hafter] at h
  case clear =>
    obtain h | ⟨h, -⟩ | ⟨-, hreset⟩ := isSeeded_step ht f w i
    · simp [hbefore, hafter] at h
    · simp [hafter] at h
    · exact hreset
  case reset =>
    obtain ⟨u, rfl⟩ := step_of_reset (hin.imp_right fun h => ⟨r, h⟩) ht
    exact u.resetUnits_isSeeded f w i
  case load =>
    rw [step_of_decoded hin hc] at ht
    exact isSeeded_of_load_ok ht hok
  case read =>
    subst hf hw
    have hraise := exec_unseeded (s := { s with inputs := rest }) hop hi hexist hdata hclear
    rw [step_of_decoded hin hc, hraise] at ht
    exact (congrArg State.responses (Host.Outcome.next.inj ht)).symm

end Sys2Proof.Machine
end

section
/-! ### The port: requests and responses in order (20_memory.md R48) -/

namespace Sys2Proof.Machine

variable {s t : State} {r : Request} {rest : List Input}

/-- Every command completes with one response and takes nothing from the port (R55, R163). -/
theorem exec_answers_once (c : Instr) (s : State) :
    ∃ t a, exec c s = .next t ∧ t.inputs = s.inputs ∧ t.responses = s.responses ++ [a] := by
  obtain ⟨st, out, h, -⟩ | ⟨t, out, h, hok, ⟨-, -, hinputs, -⟩, -⟩ := exec_cases c s
  · exact ⟨_, _, h, State.answer_inputs .., State.answer_responses ..⟩
  · exact ⟨t, _, h, hinputs, hok⟩

/-- A step that finds a request first takes that request and adds one response, whether the word decodes
or not. -/
theorem step_of_request (h : s.inputs = .request r :: rest) :
    ∃ t a, step s = .next t ∧ t.inputs = rest ∧ t.responses = s.responses ++ [a] := by
  cases hc : decode r with
  | error e =>
    exact ⟨_, _, step_of_illegal h hc, State.answer_inputs .., State.answer_responses ..⟩
  | ok c =>
    rw [step_of_decoded h hc]
    exact exec_answers_once c { s with inputs := rest }

theorem core_run_succ_of_step (h : step s = .next t) (n : Nat) :
    core.run (n + 1) s = core.run n t := by
  have hstep : core.step s = .next t := h
  simp only [Host.Core.run, hstep]

/-- Settles O7, by induction on the waiting requests: the first step gives the first response, and the
responses to the other requests are those the state it leaves is given for them. -/
theorem queuedRequestsAreAnsweredInOrder : Obligations.QueuedRequestsAreAnsweredInOrder := by
  intro rs rest
  induction rs with
  | nil =>
    intro s hin
    refine ⟨[], rfl, fun n hn => ⟨s, ?_, by simpa using hin, by simp⟩⟩
    obtain rfl : n = 0 := Nat.le_zero.mp hn
    rfl
  | cons r rs ih =>
    intro s hin
    obtain ⟨t, a, hstep, htin, htresp⟩ := step_of_request hin
    obtain ⟨as, hlen, hrun⟩ := ih t htin
    refine ⟨a :: as, by simp [hlen], fun n hn => ?_⟩
    cases n with
    | zero => exact ⟨s, rfl, hin, by simp⟩
    | succ n =>
      obtain ⟨u, hu, huin, huresp⟩ := hrun n (Nat.le_of_succ_le_succ hn)
      exact ⟨u, (core_run_succ_of_step hstep n).trans hu, huin, by simp [huresp, htresp]⟩

end Sys2Proof.Machine
end

section
/-! ### The decoder: the fields of a command word (30_encoding.md R56 to R61) -/

namespace Sys2Proof

open Sys2Proof.Statements

theorem opOf_eq_some_iff {n : Nat} {op : Op} : opOf n = some op ↔ opCode op = n := by
  constructor
  · intro h
    unfold opOf at h
    split at h <;> cases h <;> rfl
  · rintro rfl
    cases op <;> rfl

theorem familyOf_eq_some_iff {n : Nat} {f : Family} : familyOf n = some f ↔ famCode f = n := by
  constructor
  · intro h
    unfold familyOf at h
    split at h <;> cases h <;> rfl
  · rintro rfl
    cases f <;> rfl

theorem opCode_lt (op : Op) : opCode op < 4 := by cases op <;> decide

theorem famCode_lt (f : Family) : famCode f < 5 := by cases f <;> decide

theorem opCode_eq_three_iff {op : Op} : opCode op = 3 ↔ op = .eq := by cases op <;> decide

/-- Every code below 5 names a family. -/
theorem exists_famCode {n : Nat} (h : n < 5) : ∃ f, famCode f = n := by
  obtain rfl | rfl | rfl | rfl | rfl : n = 0 ∨ n = 1 ∨ n = 2 ∨ n = 3 ∨ n = 4 := by omega
  exacts [⟨.ss, rfl⟩, ⟨.xs64, rfl⟩, ⟨.xs128p, rfl⟩, ⟨.xrs128p, rfl⟩, ⟨.xsh256pp, rfl⟩]

/-- A field is a number of as many bits as it has. -/
theorem field_lt (c : CommandWord) (hi lo : Nat) : field c hi lo < 2 ^ (hi - lo + 1) :=
  (c.extractLsb hi lo).isLt

theorem lanes_widthOf {n : Nat} (h : n < 4) : (widthOf n).lanes = 2 ^ n := by
  rw [Machine.Width.lanes_eq_two_pow_code, code_widthOf h]

/-- The width is known from its number of lanes (R59). -/
theorem widthOf_eq_of_lanes {w : Width} {n : Nat} (h : w.lanes = 2 ^ n) : widthOf n = w := by
  rw [Machine.Width.lanes_eq_two_pow_code] at h
  rw [← Nat.pow_right_injective (Nat.le_refl 2) h, widthOf_code]

/-- A word is a command exactly when none of R66's four conditions holds, and then it is the command of its
fields. -/
theorem decode_eq_ok_iff {c : CommandWord} {d : List Word} {x : Instr} :
    decode ⟨c, d⟩ = .ok x ↔
      field c 31 16 = 0 ∧ ∃ op f, opCode op = field c 2 0 ∧ famCode f = field c 5 3 ∧
        (op ≠ .eq → field c 15 12 = 0) ∧
        Instr.ofFields op f (widthOf (field c 7 6)) (Fin.ofNat 16 (field c 11 8))
          (Fin.ofNat 16 (field c 15 12)) d = x := by
  simp only [← opOf_eq_some_iff, ← familyOf_eq_some_iff, decode]
  constructor
  · intro h
    split at h
    · cases h
    next hrsv =>
    split at h
    · cases h
    next op hop =>
    split at h
    · cases h
    next f hf =>
    split at h
    · cases h
    next hinst2 =>
    exact ⟨not_not.mp hrsv, op, f, hop, hf, by simpa using hinst2, Except.ok.inj h⟩
  · rintro ⟨hrsv, op, f, hop, hf, hinst2, rfl⟩
    simpa [hrsv, hop, hf] using hinst2

/-- The command of known fields. -/
theorem decode_of_fields {c : CommandWord} {op : Op} {f : Family} {w : Width} {i i2 : Inst}
    (hrsv : field c 31 16 = 0) (hop : opCode op = field c 2 0) (hf : famCode f = field c 5 3)
    (hw : w.lanes = 2 ^ field c 7 6) (hi : i.val = field c 11 8) (hi2 : i2.val = field c 15 12)
    (hinst2 : op ≠ .eq → i2 = 0) (d : List Word) :
    decode ⟨c, d⟩ = .ok (.ofFields op f w i i2 d) := by
  refine decode_eq_ok_iff.mpr ⟨hrsv, op, f, hop, hf, fun h => ?_, ?_⟩
  · rw [← hi2, hinst2 h]
    rfl
  · rw [widthOf_eq_of_lanes hw, ← hi, ← hi2, Fin.ofNat_val_eq_self, Fin.ofNat_val_eq_self]

section ofFields

variable (op : Op) (f : Family) (w : Width) (i i2 : Inst) (d : List Word)

@[simp] theorem Instr.ofFields_op : (Instr.ofFields op f w i i2 d).op = op := by
  cases op <;> simp [Instr.ofFields]

@[simp] theorem Instr.ofFields_family : (Instr.ofFields op f w i i2 d).family = f := by
  cases op <;> simp [Instr.ofFields]

@[simp] theorem Instr.ofFields_width : (Instr.ofFields op f w i i2 d).width = w := by
  cases op <;> simp [Instr.ofFields]

@[simp] theorem Instr.ofFields_inst : (Instr.ofFields op f w i i2 d).inst = i := by
  cases op <;> simp [Instr.ofFields]

@[simp] theorem Instr.ofFields_data : (Instr.ofFields op f w i i2 d).data = d := by
  cases op <;> simp [Instr.ofFields]

theorem Instr.ofFields_inst2 (h : op = .eq) : (Instr.ofFields op f w i i2 d).inst2 = i2 := by
  subst h
  simp [Instr.ofFields]

theorem Instr.mem_insts_ofFields {i' : Inst} :
    i' ∈ (Instr.ofFields op f w i i2 d).insts ↔ i' = i ∨ op = .eq ∧ i' = i2 := by
  cases op <;> simp [Instr.ofFields]

end ofFields

/-- Settles O13: `decode_eq_ok_iff` read off in both directions. -/
theorem decodedFieldsAreThoseOfTheWord : Obligations.DecodedFieldsAreThoseOfTheWord := by
  refine ⟨fun c d hrsv hop hfam => ?_, fun c d x hx => ?_⟩
  · obtain ⟨f, hf⟩ := exists_famCode hfam
    exact ⟨_, decode_eq_ok_iff.mpr ⟨hrsv, .eq, f, hop.symm, hf, fun h => absurd rfl h, rfl⟩⟩
  · obtain ⟨-, op, f, hop, hf, hinst2, rfl⟩ := decode_eq_ok_iff.mp hx
    rw [Instr.ofFields_op, Instr.ofFields_family, Instr.ofFields_width, Instr.ofFields_inst,
      Instr.ofFields_data]
    refine ⟨hop, hf, lanes_widthOf (field_lt c 7 6), Nat.mod_eq_of_lt (field_lt c 11 8),
      fun h => ?_, hinst2, rfl⟩
    rw [Instr.ofFields_inst2 _ _ _ _ _ _ h]
    exact Nat.mod_eq_of_lt (field_lt c 15 12)

end Sys2Proof
end

section
/-! ### The port: illegal words (30_encoding.md R66) -/

namespace Sys2Proof.Machine

open Sys2Proof.Statements

/-- Settles O12: a word that decodes has, by `decode_eq_ok_iff`, none of the reserved values, so these words
do not decode. -/
theorem reservedEncodingsAnswerErrIllegal : Obligations.ReservedEncodingsAnswerErrIllegal := by
  intro s c d rest hin hreserved
  cases hdecode : decode ⟨c, d⟩ with
  | error e => exact step_of_illegal hin hdecode
  | ok x =>
    exfalso
    obtain ⟨hrsv, op, f, hop, hf, hinst2, -⟩ := decode_eq_ok_iff.mp hdecode
    obtain h | h | h | ⟨h, hnot⟩ := hreserved
    · exact h hrsv
    · exact absurd (opCode_lt op) (Nat.not_lt.mpr (h.trans_eq hop.symm))
    · exact absurd (famCode_lt f) (Nat.not_lt.mpr (h.trans_eq hf.symm))
    · exact h (hinst2 fun heq => hnot (hop.symm.trans (opCode_eq_three_iff.mpr heq)))

end Sys2Proof.Machine
end

section
/-! ### The port: the checks of a command and its data lengths (30_encoding.md R63, R64) -/

namespace Sys2Proof.Machine

open Sys2Proof.Statements

/-! #### One command, by its first failing check -/

/-- The status of the first check of R64, parts 2 to 4, that fails for a command. -/
def firstFailure (c : Instr) (s : State) : Option Status :=
  firstError s.params c.width c.insts c.dataCount c.data.length
    (decide (c.op = .load) || c.insts.all (s.isSeeded c.family c.width))

/-- The number of data words of the OK response (R63). -/
def okDataCount (c : Instr) : Nat :=
  match c.op with
  | .load => 0
  | .next => c.width.lanes
  | .read => c.family.wordCount * c.width.lanes
  | .eq => 1

theorem dataCount_eq (c : Instr) :
    c.dataCount = if c.op = .load then c.family.wordCount * c.width.lanes else 0 := by
  rw [Instr.dataCount]
  cases c.op <;> rfl

/-- A command whose first failing check has status `e` answers `e` and does nothing else. A command that
passes every check answers OK, and from a state in canonical form with the data words of R63. -/
theorem exec_by_firstFailure (c : Instr) (s : State) :
    (∃ e, firstFailure c s = some e ∧ exec c s = .next (s.answer e [])) ∨
    (firstFailure c s = none ∧ ∃ t out, exec c s = .next t ∧ AnswersOk s t out ∧
      (s.WellFormed → out.length = okDataCount c)) := by
  induction c using instr_induction with
  | load F f L w i d hexec =>
    have hchecks : firstFailure (.loadOf f w i d) s =
        firstError s.params w [i] (f.wordCount * w.lanes) d.length true := by
      simp [firstFailure, Instr.dataCount]
    rw [hexec, hchecks]
    obtain ⟨e, he, h⟩ | ⟨hexist, hlength, h⟩ := L.loadUnit_eq w i d s
    · exact .inl ⟨e, he, h⟩
    · obtain ⟨hok, -⟩ := L.store_answer_ok s w i (F.ofData w.lanes d) []
      exact .inr ⟨firstError_eq_none_iff.mpr ⟨hexist, hlength, rfl⟩, _, _, h, hok,
        fun _ => by simp [okDataCount]⟩
  | next F f L w i d hexec =>
    have hchecks : firstFailure (.nextOf f w i d) s =
        firstError s.params w [i] 0 d.length (Bank.unitAt (F.bank s) w i).seeded := by
      simp [firstFailure, Instr.dataCount, L.isSeeded_eq]
    rw [hexec, hchecks]
    obtain ⟨e, he, h⟩ | ⟨hexist, rfl, hseeded, h⟩ := FamilyOps.Lawful.nextUnit_eq F w i d s
    · exact .inl ⟨e, he, h⟩
    · obtain ⟨hok, -⟩ := L.store_answer_ok s w i
        ((Bank.unitAt (F.bank s) w i).lanes.map fun l => (F.next l).1)
        ((Bank.unitAt (F.bank s) w i).lanes.map fun l => (F.next l).2)
      exact .inr ⟨firstError_none hexist hseeded, _, _, h, hok, fun hs => by
        simp [okDataCount, Bank.lanes_length _ _ _ (L.wellFormed_bank s hs) hseeded]⟩
  | read F f L w i d hexec =>
    have hchecks : firstFailure (.readOf f w i d) s =
        firstError s.params w [i] 0 d.length (Bank.unitAt (F.bank s) w i).seeded := by
      simp [firstFailure, Instr.dataCount, L.isSeeded_eq]
    rw [hexec, hchecks]
    obtain ⟨e, he, h⟩ | ⟨hexist, rfl, hseeded, h⟩ := FamilyOps.Lawful.readUnit_eq F w i d s
    · exact .inl ⟨e, he, h⟩
    · exact .inr ⟨firstError_none hexist hseeded, _, _, h, rfl, fun hs => by
        simp [okDataCount, L.toData_length, L.wordCount_eq,
          Bank.lanes_length _ _ _ (L.wellFormed_bank s hs) hseeded]⟩
  | eq F f L w i i2 d hexec =>
    have hchecks : firstFailure (.eqOf f w i i2 d) s =
        firstError s.params w [i, i2] 0 d.length
          ((Bank.unitAt (F.bank s) w i).seeded && (Bank.unitAt (F.bank s) w i2).seeded) := by
      simp [firstFailure, Instr.dataCount, L.isSeeded_eq]
    rw [hexec, hchecks]
    obtain ⟨e, he, h⟩ | ⟨hexist, rfl, hseeded, hseeded2, h⟩ :=
      FamilyOps.Lawful.eqUnits_eq F w i i2 d s
    · exact .inl ⟨e, he, h⟩
    · exact .inr ⟨firstError_none hexist (by rw [hseeded, hseeded2]; rfl), _, _, h, rfl,
        fun _ => by simp [okDataCount]⟩

variable {c : Instr} {s : State}

theorem exec_of_firstFailure {e : Status} (h : firstFailure c s = some e) :
    exec c s = .next (s.answer e []) := by
  obtain ⟨e', he, hexec⟩ | ⟨hnone, -⟩ := exec_by_firstFailure c s
  · obtain rfl : e = e' := Option.some.inj (h.symm.trans he)
    exact hexec
  · simp [h] at hnone

theorem exec_absent (h : unitsExist s.params c.width c.insts = false) :
    exec c s = .next (s.answer .errAbsent []) :=
  exec_of_firstFailure (firstError_absent h)

theorem exec_wrong_length (hexist : unitsExist s.params c.width c.insts = true)
    (h : c.data.length ≠ c.dataCount) : exec c s = .next (s.answer .errLength []) :=
  exec_of_firstFailure (firstError_length hexist h)

/-- A command that names existing units, carries the data words of R63, and finds every unit it reads seeded,
completes. -/
theorem exec_completes (hexist : unitsExist s.params c.width c.insts = true)
    (hlength : c.data.length = c.dataCount)
    (hseeded : c.op ≠ .load → ∀ i ∈ c.insts, s.isSeeded c.family c.width i = true) :
    ∃ t out, exec c s = .next t ∧ AnswersOk s t out := by
  have hpass : firstFailure c s = none :=
    firstError_eq_none_iff.mpr ⟨hexist, hlength, by
      simpa [Decidable.or_iff_not_imp_left] using hseeded⟩
  obtain ⟨e, he, -⟩ | ⟨-, t, out, hexec, hok, -⟩ := exec_by_firstFailure c s
  · simp [hpass] at he
  · exact ⟨t, out, hexec, hok⟩

/-- Settles O33: a failing check gives an answer without data, and `exec_by_firstFailure` has the length of
the others. -/
theorem dataLengthsAreFixed : Obligations.DataLengthsAreFixed := by
  intro c s hs hexist
  refine ⟨fun hlength => exec_wrong_length hexist (by rwa [dataCount_eq]), fun t a ht ha => ?_⟩
  obtain ⟨e, he, hexec⟩ | ⟨-, t', out, hexec, hok, hout⟩ := exec_by_firstFailure c s
  · obtain rfl : s.answer e [] = t := Host.Outcome.next.inj (hexec.symm.trans ht)
    obtain rfl : ⟨e, []⟩ = a := by simpa using ha
    refine ⟨fun _ => rfl, fun hstatus => ?_⟩
    obtain rfl : e = .ok := hstatus
    exact absurd he firstError_ne_ok
  · obtain rfl : t' = t := Host.Outcome.next.inj (hexec.symm.trans ht)
    obtain rfl : ⟨.ok, out⟩ = a := by simpa [AnswersOk, ha] using hok.symm
    exact ⟨fun hstatus => absurd rfl hstatus, fun _ => hout hs⟩

/-! #### One request, by the fields of its word -/

@[simp] theorem State.with_inputs_isSeeded (s : State) (inp : List Input) (f : Family) (w : Width)
    (i : Inst) : ({ s with inputs := inp } : State).isSeeded f w i = s.isSeeded f w i := rfl

theorem unitsExist_ofFields (p : Config.Params) (op : Op) (f : Family) (w : Width) (i i2 : Inst)
    (d : List Word) :
    unitsExist p w (Instr.ofFields op f w i i2 d).insts = true ↔
      widthPresent p w = true ∧ i.val < instanceCount p ∧
        (op = .eq → i2.val < instanceCount p) := by
  cases op <;> simp [unitsExist, Instr.ofFields]

/-- Settles O9: the first clause is O12's; the others are the checks of the command that the fields name. -/
theorem stepFollowsTheProcedure : Obligations.StepFollowsTheProcedure := by
  intro s c d rest hin
  refine ⟨fun hreserved => ?_, fun op f w i i2 hrsv hop hf hw hi hi2 hinst2 => ?_⟩
  · exact reservedEncodingsAnswerErrIllegal s c d rest hin (by rwa [and_comm] at hreserved)
  have hstep : step s = exec (.ofFields op f w i i2 d) { s with inputs := rest } :=
    step_of_decoded hin (decode_of_fields hrsv hop hf hw hi hi2 hinst2 d)
  have hexists := unitsExist_ofFields s.params op f w i i2 d
  have hcount : (Instr.ofFields op f w i i2 d).dataCount =
      if op = .load then f.wordCount * w.lanes else 0 := by simp [dataCount_eq]
  rw [hstep]
  refine ⟨fun habsent => exec_absent ?_, fun hwidth hinst hinst2 => ?_⟩
  · rw [← Bool.not_eq_true, Instr.ofFields_width, hexists]
    rintro ⟨hwidth, hinst, hinst2⟩
    obtain h | h | ⟨heq, h⟩ := habsent
    · simp [hwidth] at h
    · omega
    · exact absurd (hinst2 heq) (Nat.not_lt.mpr h)
  have hexist := hexists.mpr ⟨hwidth, hinst, hinst2⟩
  rw [← hcount]
  refine ⟨fun hlength => exec_wrong_length (by simpa using hexist) (by simpa using hlength),
    fun hlength => ⟨fun hread hclear => ?_, fun hseeded hseeded2 => ?_⟩⟩
  · have hdata : d = [] := by simpa [hcount, hread] using hlength
    subst hdata
    obtain ⟨i', hi', hclear⟩ : ∃ i', (i' = i ∨ op = .eq ∧ i' = i2) ∧ s.isSeeded f w i' = false := by
      obtain h | ⟨heq, h⟩ := hclear
      · exact ⟨i, .inl rfl, h⟩
      · exact ⟨i2, .inr ⟨heq, rfl⟩, h⟩
    exact exec_unseeded (by simpa using hread) ((Instr.mem_insts_ofFields ..).mpr hi')
      (by simpa using hexist) (by simp) (by simpa using hclear)
  · have hseededAll : op ≠ .load → ∀ i' ∈ (Instr.ofFields op f w i i2 d).insts,
        s.isSeeded f w i' = true := by
      intro hread i' hi'
      obtain rfl | ⟨heq, rfl⟩ := (Instr.mem_insts_ofFields ..).mp hi'
      · exact hseeded hread
      · exact hseeded2 heq
    obtain ⟨t, out, hexec, hok⟩ := exec_completes (c := .ofFields op f w i i2 d)
      (s := { s with inputs := rest }) (by simpa using hexist) (by simpa using hlength)
      (by simpa using hseededAll)
    exact ⟨t, out, rfl, hexec, hok⟩

end Sys2Proof.Machine
end

section
/-! ### The pseudo-commands (30_encoding.md R70, R71) -/

namespace Sys2Proof.Machine

open Sys2Proof.Config Sys2Proof.Statements

/-! #### Rows of equal length one after the other -/

theorem flatMap_length_of_uniform {α β : Type} {g : α → List β} {W : Nat} (xs : List α)
    (hg : ∀ a ∈ xs, (g a).length = W) : (xs.flatMap g).length = xs.length * W := by
  rw [List.length_flatMap, List.map_congr_left hg, List.map_const', List.sum_replicate, smul_eq_mul]

/-- Index j*W + k of rows of length W is element k of row j. -/
theorem getElem?_flatMap_of_uniform {α β : Type} {g : α → List β} {W k : Nat} (xs : List α)
    (hg : ∀ a ∈ xs, (g a).length = W) (hk : k < W) (j : Nat) :
    (xs.flatMap g)[j * W + k]? = xs[j]?.bind fun a => (g a)[k]? := by
  induction xs generalizing j with
  | nil => simp
  | cons a rest ih =>
    obtain ⟨ha, hrest⟩ := List.forall_mem_cons.mp hg
    rw [List.flatMap_cons]
    cases j with
    | zero => simp [List.getElem?_append_left, ha, hk]
    | succ j =>
      have hindex : (j + 1) * W + k - W = j * W + k := by rw [Nat.succ_mul]; omega
      rw [List.getElem?_append_right (by rw [ha, Nat.succ_mul]; omega), ha, hindex, ih hrest]
      simp

/-! #### LOAD of any family -/

theorem loadOf_completes (f : Family) (w : Width) (i : Inst) (d : List Word) :
    LoadCompletes (.loadOf f w i d) f w i d := by
  intro s hexist hlength
  obtain ⟨α, -, F, L, hload, -⟩ := exists_lawful f
  obtain ⟨e, he, -⟩ | ⟨-, -, h⟩ := L.loadUnit_eq w i d s
  · rw [hlength, firstError_none hexist rfl] at he
    cases he
  · obtain ⟨hok, hframe, hseeded⟩ := L.store_answer_ok s w i (F.ofData w.lanes d) []
    refine ⟨_, (hload w i d s).trans h, hok, hseeded, hframe, fun j hj k hk => ?_⟩
    have hindex : j * w.lanes + k < d.length := by
      rw [hlength]
      calc j * w.lanes + k < (j + 1) * w.lanes := by rw [Nat.succ_mul]; omega
        _ ≤ f.wordCount * w.lanes := Nat.mul_le_mul_right _ hj
    rw [← L.wordCount_eq] at hlength hj
    refine ⟨d[j * w.lanes + k], List.getElem?_eq_getElem hindex, ?_⟩
    rw [L.word?_eq, L.bank_answer, L.bank_setBank, Bank.unitAt_store_same,
      L.ofData_word _ _ hlength j hj k hk, List.getElem?_eq_getElem hindex]

/-- Settles O58: the data of `loadb` are m rows of W equal words, and `loadOf_completes` puts row j into
word j of every lane. -/
theorem loadbPutsTheSameSeedInEveryLane : Obligations.LoadbPutsTheSameSeedInEveryLane := by
  intro s f w i v hexist hv
  have hrow : ∀ x ∈ v, (List.replicate w.lanes x).length = w.lanes := fun _ _ =>
    List.length_replicate
  have hlength : (v.flatMap (List.replicate w.lanes)).length = f.wordCount * w.lanes := by
    rw [flatMap_length_of_uniform v hrow, hv]
  have hword : ∀ j < f.wordCount, ∀ k < w.lanes,
      (v.flatMap (List.replicate w.lanes))[j * w.lanes + k]? = v[j]? := fun j hj k hk => by
    rw [getElem?_flatMap_of_uniform v hrow hk]
    simp [hk]
  obtain ⟨t, hexec, hok, -, -, hstate⟩ := loadOf_completes f w i _ s hexist hlength
  refine ⟨⟨_, rfl, hlength, hword⟩, t, hexec, hok, fun j hj k hk => ?_⟩
  obtain ⟨x, hx, ht⟩ := hstate j hj k hk
  rw [ht, ← hx, hword j hj k hk]

/-! #### The NEXTs of `seed` -/

/-- The words that n NEXTs of a SeedSpreader unit with these lanes answer, one NEXT after the other. -/
def ssOutputs (n : Nat) (lanes : List Word) : List Word :=
  (List.range n).flatMap fun j => lanes.map fun x => ssMix (x + BitVec.ofNat 64 (j + 1) * smInc)

/-- m steps after one step are m + 1 steps. -/
theorem ss_advance (x : Word) (m : Nat) :
    x + smInc + BitVec.ofNat 64 m * smInc = x + BitVec.ofNat 64 (m + 1) * smInc := by
  rw [BitVec.ofNat_add, BitVec.add_mul, BitVec.one_mul]
  ac_rfl

theorem ssOutputs_succ (n : Nat) (lanes : List Word) :
    ssOutputs (n + 1) lanes =
      (lanes.map fun x => ssMix (x + smInc)) ++ ssOutputs n (lanes.map (· + smInc)) := by
  simp [ssOutputs, List.range_succ_eq_map, List.flatMap_map, ss_advance, Function.comp_def]

theorem ssOutputs_length (n : Nat) (lanes : List Word) :
    (ssOutputs n lanes).length = n * lanes.length := by
  rw [ssOutputs, flatMap_length_of_uniform (W := lanes.length) _ (by simp), List.length_range]

theorem ssOutputs_getElem? {n j k : Nat} {lanes : List Word} (hj : j < n) (hk : k < lanes.length) :
    (ssOutputs n lanes)[j * lanes.length + k]? =
      some (ssMix (lanes[k] + BitVec.ofNat 64 (j + 1) * smInc)) := by
  rw [ssOutputs, getElem?_flatMap_of_uniform _ (by simp) hk]
  simp [hj, hk]

variable {s : State} {w : Width} {p : Inst}

/-- NEXT of a SeedSpreader unit that exists and is seeded. -/
theorem nextSs_of_seeded {lanes : List Word} (hexist : unitsExist s.params w [p] = true)
    (hunit : Bank.unitAt s.ss w p = ⟨true, lanes⟩) :
    ∃ t, exec (.nextSs w p []) s = .next t ∧ t.params = s.params ∧
      Bank.unitAt t.ss w p = ⟨true, lanes.map (· + smInc)⟩ ∧
      t.responses = s.responses ++ [⟨.ok, lanes.map fun x => ssMix (x + smInc)⟩] := by
  have hbank : Bank.unitAt (ssOps.bank s) w p = ⟨true, lanes⟩ := hunit
  obtain ⟨e, he, -⟩ | ⟨-, -, -, h⟩ := FamilyOps.Lawful.nextUnit_eq ssOps w p [] s
  · rw [hbank, List.length_nil, firstError_none hexist rfl] at he
    cases he
  · rw [hbank] at h
    exact ⟨_, h, rfl, Bank.unitAt_store_same .., rfl⟩

/-- n NEXTs of a SeedSpreader unit that exists and is seeded: all answer OK, and every lane advances by n
steps. -/
theorem collectSeeds_of_seeded (n : Nat) {lanes : List Word} (got : List Word)
    (hexist : unitsExist s.params w [p] = true)
    (hunit : Bank.unitAt s.ss w p = ⟨true, lanes⟩) :
    ∃ t, collectSeeds w p n got s = .next (t, some (got ++ ssOutputs n lanes)) ∧
      t.params = s.params ∧
      Bank.unitAt t.ss w p = ⟨true, lanes.map (· + BitVec.ofNat 64 n * smInc)⟩ ∧
      t.responses.length = s.responses.length + n := by
  induction n generalizing s lanes got with
  | zero => exact ⟨s, by simp [collectSeeds, ssOutputs], rfl, by simpa using hunit, rfl⟩
  | succ n ih =>
    obtain ⟨u, hnext, huparams, huunit, huresponses⟩ := nextSs_of_seeded hexist hunit
    obtain ⟨t, hrest, hparams, htunit, hresponses⟩ :=
      ih (got ++ lanes.map fun x => ssMix (x + smInc)) (by rwa [huparams]) huunit
    refine ⟨t, ?_, hparams.trans huparams, ?_, ?_⟩
    · rw [collectSeeds, hnext]
      simp [huresponses, hrest, ssOutputs_succ]
    · simpa [Function.comp_def, ss_advance] using htunit
    · rw [hresponses, huresponses, List.length_append, List.length_singleton]
      omega

/-- The host stops at a first NEXT that answers an error. -/
theorem seed_of_error {e : Status} (f : SeedTarget) (i : Inst) (he : e ≠ .ok)
    (h : exec (.nextSs w p []) s = .next (s.answer e [])) :
    seed f w i p s = .next (s.answer e []) := by
  obtain ⟨m, hm⟩ : ∃ m, f.family.wordCount = m + 1 := by cases f <;> exact ⟨_, rfl⟩
  have hstop : collectSeeds w p (m + 1) [] s = .next (s.answer e [], none) := by
    rw [collectSeeds, h]
    simp only [State.answer_responses, List.getLast?_concat]
    split
    · next hlast =>
      obtain ⟨rfl, -⟩ : e = .ok ∧ _ := by simpa using hlast
      exact absurd rfl he
    · rfl
  rw [seed, hm, hstop]

theorem SeedTarget.family_ne_ss (f : SeedTarget) : f.family ≠ .ss := by cases f <;> decide

/-- Settles O57: the m NEXTs are `collectSeeds_of_seeded` and the LOAD of their words `loadOf_completes`, which
leaves the SeedSpreader alone; without a seeded SeedSpreader the first NEXT is the error of its check. -/
theorem seedConstructsFromTheSeedSpreader : Obligations.SeedConstructsFromTheSeedSpreader := by
  intro s f w i p hs
  refine ⟨fun hspreader hseeded hexist => ?_, fun hspreader hclear => ?_, fun habsent => ?_⟩
  · rw [ssOps_lawful.isSeeded_eq] at hseeded
    have hlanes := Bank.lanes_length _ _ _ (ssOps_lawful.wellFormed_bank s hs) hseeded
    obtain ⟨lanes, hunit⟩ : ∃ lanes, Bank.unitAt (ssOps.bank s) w p = ⟨true, lanes⟩ :=
      ⟨_, congrArg (UnitRegs.mk · _) hseeded⟩
    rw [hunit] at hlanes
    obtain ⟨u, hcollect, hparams, huunit, huresponses⟩ :=
      collectSeeds_of_seeded f.family.wordCount [] hspreader hunit
    rw [List.nil_append] at hcollect
    have hlength : (ssOutputs f.family.wordCount lanes).length = f.family.wordCount * w.lanes := by
      rw [ssOutputs_length, hlanes]
    obtain ⟨t, hload, hok, htseeded, ⟨hother, -⟩, hwords⟩ :=
      loadOf_completes f.family w i _ u (by rwa [hparams]) hlength
    refine ⟨t, ?_, htseeded, ?_, fun k hk => ?_⟩
    · rw [seed, hcollect]
      exact hload
    · rw [hok, List.length_append, huresponses, List.length_singleton]
    · have hk' : k < lanes.length := by rwa [hlanes]
      have hspread : t.unit .ss w p = u.unit .ss w p :=
        hother _ _ _ fun h => f.family_ne_ss (congrArg Prod.fst h).symm
      refine ⟨lanes[k], ?_, ?_, fun j hj => ?_⟩
      · rw [ssOps_lawful.word?_eq, hunit]
        simp [hk', ssOps, words1]
      · rw [State.word?, hspread, ← State.word?, ssOps_lawful.word?_eq]
        simp [huunit, hk', ssOps, words1]
      · obtain ⟨x, hx, ht⟩ := hwords j hj k hk
        rw [ht, ← hx, ← hlanes, ssOutputs_getElem? hj hk']
  · exact seed_of_error f i (by decide)
      (exec_unseeded (by simp [Instr.op]) (List.mem_singleton_self p) hspreader rfl hclear)
  · exact seed_of_error f i (by decide) (exec_absent habsent)

end Sys2Proof.Machine
end

section
/-! ### The decoder: the command words of the family files (30_encoding.md R68) -/

namespace Sys2Proof

open Sys2Proof.Statements

/-- A command word whose fixed bits hold OP and FAM decodes to the command of its fields. -/
theorem decode_commandWord {fixed : CommandWord} {op : Op} {f : Family} {i2 : Inst}
    (hfixed : fixed.toNat = opCode op + 8 * famCode f) (hinst2 : op ≠ .eq → i2 = 0) (w : Width)
    (i : Inst) (d : List Word) :
    decode ⟨commandWord fixed w i i2, d⟩ = .ok (.ofFields op f w i i2 d) := by
  have hop := opCode_lt op
  have hf := famCode_lt f
  obtain ⟨hrsv, hopField, hfField, hwField, hiField, hi2Field⟩ :=
    rowWord_fields (fixed := fixed) (by omega) w i i2
  refine decode_of_fields hrsv (hopField.trans ?_).symm (hfField.trans ?_).symm ?_ hiField.symm
    hi2Field.symm hinst2 d
  · omega
  · omega
  · exact (Machine.Width.lanes_eq_two_pow_code w).trans (congrArg (2 ^ ·) hwField.symm)

end Sys2Proof
end

section
/-! ### LOAD and NEXT of any family: the checks, and what NEXT leaves (30_encoding.md R64) -/

namespace Sys2Proof.Machine

open Sys2Proof.Statements

theorem loadOf_checks (f : Family) (w : Width) (i : Inst) (d : List Word) :
    LoadChecks (.loadOf f w i d) (f.wordCount * w.lanes) := by
  refine fun s => ⟨fun habsent => exec_absent ?_, fun hexist hlength => exec_wrong_length ?_ ?_⟩
  · simpa using habsent
  · simpa using hexist
  · simpa [dataCount_eq] using hlength

/-- NEXT, READ and EQ make the checks of R64, parts 2 to 4, on the instances they name. -/
theorem readingChecks_of_not_load {c : Instr} (hop : c.op ≠ .load) :
    ReadingChecks c c.family c.insts := by
  refine fun s => ⟨exec_absent, fun hexist hdata => exec_wrong_length hexist ?_,
    fun hexist hdata ⟨i, hi, hclear⟩ => exec_unseeded hop hi hexist hdata hclear⟩
  simpa [dataCount_eq, hop] using hdata

/-- NEXT of a lawful family steps every lane by the family's recurrence: it obeys each law on the words of a
lane that agrees with `F.next`. -/
theorem FamilyOps.Lawful.nextOf_completes {α : Type} {F : FamilyOps α} {f : Family}
    (L : F.Lawful f) {w : Width} {i : Inst} {law : List Word → List Word × Word}
    (hexec : ∀ s, exec (.nextOf f w i []) s = nextUnit F w i [] s)
    (hlaw : ∀ l, law (F.words l) = (F.words (F.next l).1, (F.next l).2)) :
    NextCompletes (.nextOf f w i []) f w i law := by
  intro s hs hexist hseeded
  rw [L.isSeeded_eq] at hseeded
  have hlanes := Bank.lanes_length _ _ _ (L.wellFormed_bank s hs) hseeded
  obtain ⟨e, he, -⟩ | ⟨-, -, -, h⟩ := FamilyOps.Lawful.nextUnit_eq F w i [] s
  · rw [List.length_nil, firstError_none hexist hseeded] at he
    cases he
  · obtain ⟨hok, hframe, hset⟩ := L.store_answer_ok s w i
      ((Bank.unitAt (F.bank s) w i).lanes.map fun l => (F.next l).1)
      ((Bank.unitAt (F.bank s) w i).lanes.map fun l => (F.next l).2)
    refine ⟨_, _, (hexec s).trans h, hok, by rw [List.length_map, hlanes], hset, hframe,
      fun k hk => ?_⟩
    have hwords : ∀ l, (F.words l).length = f.wordCount := fun l => by
      rw [L.words_length, L.wordCount_eq]
    obtain ⟨l, hl⟩ : ∃ l, (Bank.unitAt (F.bank s) w i).lanes[k]? = some l :=
      ⟨_, List.getElem?_eq_getElem (hlanes.symm ▸ hk)⟩
    refine ⟨F.words l, hwords l, fun j _ => ?old, ?length, fun j _ => ?new, ?out⟩
    case old =>
      rw [L.word?_eq, hl]
      rfl
    case length => rw [hlaw, hwords]
    case new =>
      rw [L.word?_eq, L.bank_answer, L.bank_setBank, Bank.unitAt_store_same, hlaw]
      simp [hl]
    case out =>
      rw [List.getElem?_map, hl, hlaw]
      rfl

end Sys2Proof.Machine
end

section
/-! ### SeedSpreader: LOAD and NEXT (40_seedspreader.md R80, R81) -/

namespace Sys2Proof.Machine

open Sys2Proof.Statements

/-- Settles O18: `loadOf_checks` and `loadOf_completes` at the family with one word a lane. -/
theorem loadSsConstructsTheUnit : Obligations.LoadSsConstructsTheUnit := by
  intro w i d
  refine ⟨decode_commandWord (op := .load) (f := .ss) rfl (fun _ => rfl) w i d, ?_,
    loadOf_completes .ss w i d⟩
  have hchecks := loadOf_checks .ss w i d
  rwa [Family.wordCount, Nat.one_mul] at hchecks

/-- Settles O23: the law R81 writes out is `ssNext` on the one word of a lane. -/
theorem nextSsStepsEveryLane : Obligations.NextSsStepsEveryLane :=
  fun w i d => ⟨decode_commandWord (op := .next) (f := .ss) rfl (fun _ => rfl) w i d,
    readingChecks_of_not_load (by simp [Instr.op]),
    ssOps_lawful.nextOf_completes (fun _ => rfl) fun _ => rfl⟩

end Sys2Proof.Machine
end

section
/-! ### Xorshift64: LOAD and NEXT (41_xorshift64.md R90, R91) -/

namespace Sys2Proof.Machine

open Sys2Proof.Statements

/-- Settles O19: `loadOf_checks` and `loadOf_completes` at XS64, whose m(f)*W data words are W. -/
theorem loadXs64ConstructsTheUnit : Obligations.LoadXs64ConstructsTheUnit := by
  intro w i d
  have hcount : Family.xs64.wordCount * w.lanes = w.lanes := Nat.one_mul _
  refine ⟨decode_commandWord (op := .load) (f := .xs64) rfl (fun _ => rfl) w i d, ?_,
    loadOf_completes .xs64 w i d⟩
  exact hcount ▸ loadOf_checks .xs64 w i d

/-- Settles O24: the three xor-shifts R91 writes out, each on the word the one before it left, are
`xs64Next` on the one word of a lane. -/
theorem nextXs64StepsEveryLane : Obligations.NextXs64StepsEveryLane :=
  fun w i d => ⟨decode_commandWord (op := .next) (f := .xs64) rfl (fun _ => rfl) w i d,
    readingChecks_of_not_load (by simp [Instr.op]),
    xs64Ops_lawful.nextOf_completes (fun _ => rfl) fun _ => rfl⟩

end Sys2Proof.Machine
end

section
/-! ### Xorshift128+: LOAD and NEXT (42_xorshift128plus.md R100, R101) -/

namespace Sys2Proof.Machine

open Sys2Proof.Statements

/-- Settles O20: `loadOf_checks` and `loadOf_completes` at XS128P, whose lanes have two words each. -/
theorem loadXs128pConstructsTheUnit : Obligations.LoadXs128pConstructsTheUnit :=
  fun w i d => ⟨decode_commandWord (op := .load) (f := .xs128p) rfl (fun _ => rfl) w i d,
    loadOf_checks .xs128p w i d, loadOf_completes .xs128p w i d⟩

/-- Settles O25: the law R101 writes out is `xs128pNext` on the two words of a lane, the right shift by
`XS128P_B` taking s1 as the left shift left it and the output adding the two new words. -/
theorem nextXs128pStepsEveryLane : Obligations.NextXs128pStepsEveryLane :=
  fun w i d => ⟨decode_commandWord (op := .next) (f := .xs128p) rfl (fun _ => rfl) w i d,
    readingChecks_of_not_load (by simp [Instr.op]),
    xs128pOps_lawful.nextOf_completes (fun _ => rfl) fun _ => rfl⟩

end Sys2Proof.Machine
end

section
/-! ### Xoroshiro128+: LOAD and NEXT (43_xoroshiro128plus.md R110, R111) -/

namespace Sys2Proof.Machine

open Sys2Proof.Statements

/-- Settles O21: `loadOf_checks` and `loadOf_completes` at XRS128P, whose lanes have two words each. -/
theorem loadXrs128pConstructsTheUnit : Obligations.LoadXrs128pConstructsTheUnit :=
  fun w i d => ⟨decode_commandWord (op := .load) (f := .xrs128p) rfl (fun _ => rfl) w i d,
    loadOf_checks .xrs128p w i d, loadOf_completes .xrs128p w i d⟩

/-- Settles O26: the law R111 writes out is `xrs128pNext` on the two words of a lane, with `rotl` spelled as
its two shifts; both new words take s1 after the xor, the output the two words before it. -/
theorem nextXrs128pStepsEveryLane : Obligations.NextXrs128pStepsEveryLane :=
  fun w i d => ⟨decode_commandWord (op := .next) (f := .xrs128p) rfl (fun _ => rfl) w i d,
    readingChecks_of_not_load (by simp [Instr.op]),
    xrs128pOps_lawful.nextOf_completes (fun _ => rfl) fun _ => rfl⟩

end Sys2Proof.Machine
end

section
/-! ### Xoshiro256++: LOAD and NEXT (44_xoshiro256plusplus.md R120 to R122) -/

namespace Sys2Proof.Machine

open Sys2Proof.Statements

/-- Settles O22: `loadOf_checks` and `loadOf_completes` at XSH256PP, whose lanes have four words each, each
from a data word of its own. -/
theorem loadXsh256ppConstructsTheUnit : Obligations.LoadXsh256ppConstructsTheUnit :=
  fun w i d => ⟨decode_commandWord (op := .load) (f := .xsh256pp) rfl (fun _ => rfl) w i d,
    loadOf_checks .xsh256pp w i d, loadOf_completes .xsh256pp w i d⟩

/-- Settles O27: the six statements R121 writes out, in order, are `xsh256ppNext` on the four words of a
lane, with `rotl` spelled as its two shifts and the word `XSH_J` picks spelled w1; the output takes the old
words. -/
theorem nextXsh256ppStepsEveryLane : Obligations.NextXsh256ppStepsEveryLane :=
  fun w i d => ⟨decode_commandWord (op := .next) (f := .xsh256pp) rfl (fun _ => rfl) w i d,
    readingChecks_of_not_load (by simp [Instr.op]),
    xsh256ppOps_lawful.nextOf_completes (fun _ => rfl) fun _ => rfl⟩

end Sys2Proof.Machine
end

section
/-! ### READ and EQ of any family (45_equality_and_extraction.md R130, R131) -/

namespace Sys2Proof.Machine

open Sys2Proof.Statements

/-- The fixed bits of a command word, OP and FAM, as R68 puts them together. -/
theorem fixedBits_toNat (op : Op) (f : Family) :
    (BitVec.ofNat 32 (opCode op + 8 * famCode f)).toNat = opCode op + 8 * famCode f := by
  have hop := opCode_lt op
  have hf := famCode_lt f
  exact Nat.mod_eq_of_lt (by omega)

/-! #### The words of a seeded unit in canonical form -/

/-- In canonical form every word of a seeded unit has a value (R21, R32). -/
theorem State.WellFormed.exists_word {s : State} (hs : s.WellFormed) {f : Family} {w : Width}
    {i : Inst} (hseeded : s.isSeeded f w i = true) {j k : Nat} (hj : j < f.wordCount)
    (hk : k < w.lanes) : ∃ x, s.word? f w i j k = some x := by
  obtain ⟨hlanes, hwords⟩ := hs.unit_shape hseeded
  have hk' : k < (s.unit f w i).lanes.length := by rwa [hlanes]
  have hj' : j < (s.unit f w i).lanes[k].length := by rwa [hwords _ (List.getElem_mem hk')]
  exact ⟨(s.unit f w i).lanes[k][j], by simp [State.word?, hk', hj']⟩

/-- Lanes of one shape are equal when their words are. -/
theorem lanes_eq_of_words_eq {a b : List (List Word)} {m W : Nat} (ha : a.length = W)
    (hb : b.length = W) (hma : ∀ l ∈ a, l.length = m) (hmb : ∀ l ∈ b, l.length = m)
    (h : ∀ j < m, ∀ k < W, a[k]?.bind (·[j]?) = b[k]?.bind (·[j]?)) : a = b := by
  refine List.ext_getElem (ha.trans hb.symm) fun k hka hkb => ?_
  have hla : a[k].length = m := hma _ (List.getElem_mem hka)
  have hlb : b[k].length = m := hmb _ (List.getElem_mem hkb)
  refine List.ext_getElem (hla.trans hlb.symm) fun j hja hjb => ?_
  have hword := h j (hla ▸ hja) k (ha ▸ hka)
  simpa [hka, hkb, hja, hjb] using hword

/-- In canonical form two seeded units hold the same lanes exactly when all their words match. -/
theorem State.WellFormed.lanes_eq_iff_words_match {s : State} (hs : s.WellFormed)
    {f : Family} {w : Width} {i i2 : Inst} (hi : s.isSeeded f w i = true)
    (hi2 : s.isSeeded f w i2 = true) :
    (s.unit f w i).lanes = (s.unit f w i2).lanes ↔
      ∀ j < f.wordCount, ∀ k < w.lanes, s.word? f w i j k = s.word? f w i2 j k := by
  refine ⟨fun h j _ k _ => by rw [State.word?, State.word?, h], fun h => ?_⟩
  obtain ⟨hlanes, hwords⟩ := hs.unit_shape hi
  obtain ⟨hlanes2, hwords2⟩ := hs.unit_shape hi2
  exact lanes_eq_of_words_eq hlanes hlanes2 hwords hwords2 h

/-- A lawful family's lanes are equal exactly when the lanes of the view are. -/
theorem FamilyOps.Lawful.lanes_eq_iff_view_lanes_eq {α : Type} {F : FamilyOps α} {f : Family}
    (L : F.Lawful f) (s : State) (w : Width) (i i2 : Inst) :
    (Bank.unitAt (F.bank s) w i).lanes = (Bank.unitAt (F.bank s) w i2).lanes ↔
      (s.unit f w i).lanes = (s.unit f w i2).lanes := by
  rw [L.unit_eq, L.unit_eq]
  exact (List.map_injective_iff.mpr L.words_injective).eq_iff.symm

/-! #### READ and EQ that pass their checks -/

/-- READ of an existing, seeded unit answers its words in word-major order (R62). -/
theorem readOf_completes (f : Family) (w : Width) (i : Inst) {s : State} (hs : s.WellFormed)
    (hexist : unitsExist s.params w [i] = true) (hseeded : s.isSeeded f w i = true) :
    ∃ r : List Word, exec (.readOf f w i []) s = .next (s.answer .ok r) ∧
      r.length = f.wordCount * w.lanes ∧
      ∀ j < f.wordCount, ∀ k < w.lanes, r[j * w.lanes + k]? = s.word? f w i j k := by
  obtain ⟨α, -, F, L, -, -, hread, -⟩ := exists_lawful f
  rw [L.isSeeded_eq] at hseeded
  have hlanes := Bank.lanes_length _ _ _ (L.wellFormed_bank s hs) hseeded
  obtain ⟨e, he, -⟩ | ⟨-, -, -, h⟩ := FamilyOps.Lawful.readUnit_eq F w i [] s
  · rw [List.length_nil, firstError_none hexist hseeded] at he
    cases he
  · refine ⟨_, (hread ..).trans h, by rw [L.toData_length, L.wordCount_eq, hlanes],
      fun j hj k hk => ?_⟩
    rw [L.word?_eq, L.toData_word _ _ hlanes j (L.wordCount_eq ▸ hj) k hk]

/-- EQ of existing, seeded units answers whether they hold the same lanes. -/
theorem eqOf_completes (f : Family) (w : Width) (i i2 : Inst) {s : State}
    (hexist : unitsExist s.params w [i, i2] = true) (hi : s.isSeeded f w i = true)
    (hi2 : s.isSeeded f w i2 = true) :
    exec (.eqOf f w i i2 []) s =
      .next (s.answer .ok
        [if (s.unit f w i).lanes = (s.unit f w i2).lanes then 1 else 0]) := by
  obtain ⟨α, _, F, L, -, -, -, heq⟩ := exists_lawful f
  rw [L.isSeeded_eq] at hi hi2
  obtain ⟨e, he, -⟩ | ⟨-, -, -, -, h⟩ := FamilyOps.Lawful.eqUnits_eq F w i i2 [] s
  · rw [List.length_nil, firstError_none hexist (by rw [hi, hi2]; rfl)] at he
    cases he
  · simp only [heq, h, L.lanes_eq_iff_view_lanes_eq]

/-- Settles O28: `readOf_completes` places every word, and in canonical form every word has a value. -/
theorem readReturnsEveryStateWord : Obligations.ReadReturnsEveryStateWord := by
  intro f w i d
  refine ⟨decode_commandWord (op := .read) (fixedBits_toNat .read f) (fun _ => rfl) w i d, ?_,
    fun s hs hexist hseeded => ?_⟩
  · simpa using readingChecks_of_not_load (c := .readOf f w i d) (by simp)
  · obtain ⟨r, hexec, hlength, hword⟩ := readOf_completes f w i hs hexist hseeded
    refine ⟨r, hexec, hlength, fun j hj k hk => ?_⟩
    obtain ⟨x, hx⟩ := hs.exists_word hseeded hj hk
    exact ⟨x, hx, (hword j hj k hk).trans hx⟩

/-- Settles O29: `eqOf_completes` answers whether the lanes are equal, which in canonical form is whether all
words match. -/
theorem eqComparesEveryStateWord : Obligations.EqComparesEveryStateWord := by
  intro f w i i2 d
  refine ⟨decode_commandWord (op := .eq) (fixedBits_toNat .eq f) (fun h => absurd rfl h) w i d, ?_,
    fun s hs hexist hi hi2 => ?_⟩
  · simpa using readingChecks_of_not_load (c := .eqOf f w i i2 d) (by simp)
  · have hmatch := hs.lanes_eq_iff_words_match hi hi2
    exact ⟨_, eqOf_completes f w i i2 hexist hi hi2, fun h => if_pos (hmatch.mpr h),
      fun h => if_neg (mt hmatch.mp h)⟩

end Sys2Proof.Machine
end

section
/-! ### Errors change nothing (60_exceptions.md R142) -/

namespace Sys2Proof.Machine

open Sys2Proof.Statements

/-- A request is answered with a status and nothing else happens, or it is answered OK. -/
theorem step_request_raises_or_answers_ok {s : State} {r : Request} {rest : List Input}
    (hin : s.inputs = .request r :: rest) :
    (∃ e, step s = .next (raised { s with inputs := rest } e)) ∨
      ∃ t out, step s = .next t ∧ AnswersOk s t out := by
  cases hdecode : decode r with
  | error _ => exact .inl ⟨.errIllegal, step_of_illegal hin hdecode⟩
  | ok c =>
    rw [step_of_decoded hin hdecode]
    obtain ⟨e, -, hexec⟩ | ⟨-, t, out, hexec, hok, -⟩ :=
      exec_by_firstFailure c { s with inputs := rest }
    · exact .inl ⟨e, hexec⟩
    · exact .inr ⟨t, out, hexec, hok⟩

/-- Settles O31: the status of the one response added tells which of the two happened. -/
theorem errorsChangeNothing : Obligations.ErrorsChangeNothing := by
  intro s t r rest st d hin ht hresponse hstatus
  obtain ⟨e, hraise⟩ | ⟨t', out, hstep, hok⟩ := step_request_raises_or_answers_ok hin
  · obtain rfl : raised { s with inputs := rest } e = t :=
      Host.Outcome.next.inj (hraise.symm.trans ht)
    obtain ⟨rfl, -⟩ : e = st ∧ _ := by simpa [raised] using hresponse
    rfl
  · obtain rfl : t' = t := Host.Outcome.next.inj (hstep.symm.trans ht)
    obtain ⟨rfl, -⟩ : .ok = st ∧ out = d := by simpa [AnswersOk, hresponse, eq_comm] using hok
    exact absurd rfl hstatus

end Sys2Proof.Machine
end

section
/-! ### Absent units, and the parameters that no present unit sees (60_exceptions.md R152) -/

namespace Sys2Proof.Machine

open Sys2Proof.Config (Params)
open Sys2Proof.Statements

theorem unitsExist_eq_false_iff {p : Params} {w : Width} {is : List Inst} :
    unitsExist p w is = false ↔ widthPresent p w = false ∨ ∃ i ∈ is, instanceCount p ≤ i.val := by
  simp [unitsExist, imp_iff_not_or]

/-- The checks look at the parameters for the existence of the named units only. -/
theorem firstError_of_unitsExist_eq {p q : Params} {w : Width} {is : List Inst} {want got : Nat}
    {b : Bool} (h : unitsExist q w is = unitsExist p w is) :
    firstError q w is want got b = firstError p w is want got b := by
  rw [firstError, firstError, h]

/-- A command does the same under parameters that agree on the existence of its units, and keeps them. -/
theorem exec_with_params (c : Instr) (s : State) (p : Params)
    (h : unitsExist p c.width c.insts = unitsExist s.params c.width c.insts) :
    ∃ t, exec c s = .next t ∧ exec c { s with params := p } = .next { t with params := p } := by
  induction c using instr_induction with
  | load F f L w i d hexec =>
    rw [Instr.loadOf_width, Instr.loadOf_insts] at h
    rw [hexec, hexec, loadUnit, loadUnit, firstError_of_unitsExist_eq h, L.bank_params s p,
      L.setBank_params s p]
    split <;> exact ⟨_, rfl, rfl⟩
  | next F f L w i d hexec =>
    rw [Instr.nextOf_width, Instr.nextOf_insts] at h
    rw [hexec, hexec, nextUnit, nextUnit, L.bank_params s p, firstError_of_unitsExist_eq h]
    simp only [L.setBank_params s p]
    split <;> exact ⟨_, rfl, rfl⟩
  | read F f L w i d hexec =>
    rw [Instr.readOf_width, Instr.readOf_insts] at h
    rw [hexec, hexec, readUnit, readUnit, L.bank_params s p, firstError_of_unitsExist_eq h]
    split <;> exact ⟨_, rfl, rfl⟩
  | eq F f L w i i2 d hexec =>
    rw [Instr.eqOf_width, Instr.eqOf_insts] at h
    rw [hexec, hexec, eqUnits, eqUnits, L.bank_params s p, firstError_of_unitsExist_eq h]
    split <;> exact ⟨_, rfl, rfl⟩

/-- Settles O32: an absent unit fails the first check, and two settings under which the units exist
agree on it. -/
theorem absentUnitsAnswerErrAbsentAndPresentOnesIgnoreTheRest :
    Obligations.AbsentUnitsAnswerErrAbsentAndPresentOnesIgnoreTheRest :=
  ⟨fun _ _ habsent => exec_absent (unitsExist_eq_false_iff.mpr habsent),
    fun c s p hexist hexist' => exec_with_params c s p (hexist'.trans hexist.symm)⟩

end Sys2Proof.Machine
end

section
/-! ### Zero seeds (60_exceptions.md R151) -/

namespace Sys2Proof.Machine

open Sys2Proof.Statements

/-- A command that completes hands its state to the commands after it. -/
theorem execAll_cons_of_next {c : Instr} {s t : State} (h : exec c s = .next t) (rest : List Instr) :
    execAll (c :: rest) s = execAll rest t := by
  rw [execAll, h]

/-! #### LOAD and NEXT that pass their checks, in the registers of the family -/

section

variable {α : Type} {F : FamilyOps α} {f : Family} (L : F.Lawful f) {s : State} {w : Width}
  {i : Inst}

include L

theorem FamilyOps.Lawful.loadUnit_completes {d : List Word}
    (hexist : unitsExist s.params w [i] = true) (hlength : d.length = f.wordCount * w.lanes) :
    ∃ t, loadUnit F w i d s = .next t ∧ t.params = s.params ∧
      Bank.unitAt (F.bank t) w i = ⟨true, F.ofData w.lanes d⟩ ∧
      t.responses = s.responses ++ [⟨.ok, []⟩] := by
  obtain ⟨e, he, -⟩ | ⟨-, -, h⟩ := L.loadUnit_eq w i d s
  · rw [hlength, firstError_none hexist rfl] at he
    cases he
  · obtain ⟨hok, ⟨-, hparams, -⟩, -⟩ := L.store_answer_ok s w i (F.ofData w.lanes d) []
    exact ⟨_, h, hparams, by rw [L.bank_answer, L.bank_setBank, Bank.unitAt_store_same], hok⟩

theorem FamilyOps.Lawful.nextUnit_completes {lanes : List α}
    (hexist : unitsExist s.params w [i] = true)
    (hunit : Bank.unitAt (F.bank s) w i = ⟨true, lanes⟩) :
    ∃ t, nextUnit F w i [] s = .next t ∧ t.params = s.params ∧
      Bank.unitAt (F.bank t) w i = ⟨true, lanes.map fun l => (F.next l).1⟩ ∧
      t.responses = s.responses ++ [⟨.ok, lanes.map fun l => (F.next l).2⟩] := by
  obtain ⟨e, he, -⟩ | ⟨-, -, -, h⟩ := FamilyOps.Lawful.nextUnit_eq F w i [] s
  · rw [hunit, List.length_nil, firstError_none hexist rfl] at he
    cases he
  · rw [hunit] at h
    obtain ⟨hok, ⟨-, hparams, -⟩, -⟩ := L.store_answer_ok s w i
      (lanes.map fun l => (F.next l).1) (lanes.map fun l => (F.next l).2)
    exact ⟨_, h, hparams, by rw [L.bank_answer, L.bank_setBank, Bank.unitAt_store_same], hok⟩

end

/-! #### The zero lane of a family -/

/-- `z` is the all-zero lane of the family, and NEXT leaves it as it is and outputs 0. -/
structure FamilyOps.IsZeroLane {α : Type} (F : FamilyOps α) (z : α) : Prop where
  words_eq : F.words z = List.replicate F.wordCount 0
  next_eq  : F.next z = (z, 0)

/-- R92, R102, R112, R123: every xorshift family has a zero lane. -/
theorem exists_lawful_zeroLane {f : Family} (hf : f ≠ .ss) :
    ∃ (α : Type) (F : FamilyOps α) (z : α), F.Lawful f ∧ F.IsZeroLane z ∧
      (∀ w i d s, exec (.loadOf f w i d) s = loadUnit F w i d s) ∧
      ∀ w i d s, exec (.nextOf f w i d) s = nextUnit F w i d s := by
  cases f with
  | ss => exact absurd rfl hf
  | xs64 =>
    exact ⟨_, xs64Ops, 0, xs64Ops_lawful, ⟨rfl, by decide⟩, fun _ _ _ _ => rfl,
      fun _ _ _ _ => rfl⟩
  | xs128p =>
    exact ⟨_, xs128pOps, ⟨0, 0⟩, xs128pOps_lawful, ⟨rfl, by decide⟩, fun _ _ _ _ => rfl,
      fun _ _ _ _ => rfl⟩
  | xrs128p =>
    exact ⟨_, xrs128pOps, ⟨0, 0⟩, xrs128pOps_lawful, ⟨rfl, by decide⟩, fun _ _ _ _ => rfl,
      fun _ _ _ _ => rfl⟩
  | xsh256pp =>
    exact ⟨_, xsh256ppOps, ⟨0, 0, 0, 0⟩, xsh256ppOps_lawful, ⟨rfl, by decide⟩,
      fun _ _ _ _ => rfl, fun _ _ _ _ => rfl⟩

section

variable {α : Type} {F : FamilyOps α} {f : Family} {z : α} (L : F.Lawful f) (hz : F.IsZeroLane z)

include L hz

/-- m*W zeros are the data of W zero lanes. -/
theorem FamilyOps.IsZeroLane.ofData_zeros (W : Nat) :
    F.ofData W (List.replicate (F.wordCount * W) 0) = List.replicate W z := by
  have hdata : (List.replicate (F.wordCount * W) (0 : Word)).length = F.wordCount * W :=
    List.length_replicate
  have hlanes := L.ofData_length W _ hdata
  refine List.eq_replicate_iff.mpr ⟨hlanes, fun l hl => L.words_injective ?_⟩
  obtain ⟨k, hk, rfl⟩ := List.mem_iff_getElem.mp hl
  rw [hz.words_eq]
  refine List.eq_replicate_iff.mpr ⟨L.words_length _, fun x hx => ?_⟩
  obtain ⟨j, hj, rfl⟩ := List.mem_iff_getElem.mp hx
  have hword := L.ofData_word W _ hdata j (L.words_length _ ▸ hj) k (hlanes ▸ hk)
  rw [List.getElem?_eq_getElem hk, Option.map_some, Option.bind_some,
    List.getElem?_eq_getElem hj] at hword
  exact List.eq_of_mem_replicate (List.mem_of_getElem? hword.symm)

/-- n NEXTs of a unit whose lanes are all zero: each answers OK with zeros, and the unit stays as it is. -/
theorem FamilyOps.IsZeroLane.execAll_next {w : Width} {i : Inst} {W : Nat}
    (hnext : ∀ s, exec (.nextOf f w i []) s = nextUnit F w i [] s) (n : Nat) {s : State}
    (hexist : unitsExist s.params w [i] = true)
    (hunit : Bank.unitAt (F.bank s) w i = ⟨true, List.replicate W z⟩) :
    ∃ t, execAll (List.replicate n (.nextOf f w i [])) s = .next t ∧
      Bank.unitAt (F.bank t) w i = ⟨true, List.replicate W z⟩ ∧
      t.responses = s.responses ++ List.replicate n ⟨.ok, List.replicate W 0⟩ := by
  induction n generalizing s with
  | zero => exact ⟨s, rfl, hunit, by simp⟩
  | succ n ih =>
    obtain ⟨u, hu, huparams, huunit, huresponses⟩ := L.nextUnit_completes hexist hunit
    rw [List.map_replicate, hz.next_eq] at huunit huresponses
    obtain ⟨t, ht, htunit, htresponses⟩ := ih (by rwa [huparams]) huunit
    refine ⟨t, ?_, htunit, ?_⟩
    · rw [List.replicate_succ, execAll_cons_of_next ((hnext s).trans hu), ht]
    · rw [htresponses, huresponses, List.append_assoc, List.replicate_succ, List.singleton_append]

end

/-- Settles O48: the LOAD fills the unit with zero lanes, and NEXT leaves them. -/
theorem zeroSeedsAreAcceptedAndStayZero : Obligations.ZeroSeedsAreAcceptedAndStayZero := by
  intro n s f w i hf hexist
  obtain ⟨α, F, z, L, hz, hload, hnext⟩ := exists_lawful_zeroLane hf
  obtain ⟨u, hu, huparams, huunit, huresponses⟩ :=
    L.loadUnit_completes (d := .replicate _ 0) hexist List.length_replicate
  rw [← L.wordCount_eq, hz.ofData_zeros L] at huunit
  obtain ⟨t, ht, htunit, htresponses⟩ :=
    hz.execAll_next L (hnext w i []) n (by rwa [huparams]) huunit
  refine ⟨t, ?_, ?_, fun j hj k hk => ?_⟩
  · rw [execAll_cons_of_next ((hload ..).trans hu), ht]
  · rw [htresponses, huresponses, List.append_assoc, List.singleton_append]
  · rw [L.word?_eq, htunit]
    simp [hk, hz.words_eq, L.wordCount_eq, hj]

end Sys2Proof.Machine
end

section
/-! ### The decoder and the encoder: the round trips and the opcode map (30_encoding.md section 5) -/

namespace Sys2Proof

open Sys2Proof.Statements

/-- The fixed bits of a row of the map are OP and FAM. -/
theorem mapWord_toNat (op : Op) (f : Family) :
    (mapWord op f).toNat = opCode op + 8 * famCode f := by
  cases op <;> cases f <;> rfl

theorem mapWord_lt (op : Op) (f : Family) : (mapWord op f).toNat < 64 := by
  have hop := opCode_lt op
  have hf := famCode_lt f
  rw [mapWord_toNat]
  omega

/-- Every command is the command of its fields. -/
theorem Instr.ofFields_self (c : Instr) :
    Instr.ofFields c.op c.family c.width c.inst c.inst2 c.data = c := by
  cases c <;> rfl

/-- INST2 is 0 outside EQ (R60). -/
theorem Instr.inst2_eq_zero {c : Instr} (h : c.op ≠ .eq) : c.inst2 = 0 := by
  induction c using Machine.instr_induction with
  | load => simp
  | next => simp
  | read => simp
  | eq => simp at h

/-- The encoder puts the fields of a command into its row of the map. -/
theorem encode_ofFields {op : Op} {i2 : Inst} (hinst2 : op ≠ .eq → i2 = 0) (f : Family)
    (w : Width) (i : Inst) (d : List Word) :
    encode (.ofFields op f w i i2 d) = ⟨commandWord (mapWord op f) w i i2, d⟩ := by
  cases op with
  | load => obtain rfl := hinst2 (by decide); cases f <;> rfl
  | next => obtain rfl := hinst2 (by decide); cases f <;> rfl
  | read => obtain rfl := hinst2 (by decide); cases f <;> rfl
  | eq => cases f <;> rfl

/-- Settles O14: a command is the command of its fields, its encoding is their command word, and that decodes
to the command of the same fields. -/
theorem decodeOfEncodeIsTheCommand : Obligations.DecodeOfEncodeIsTheCommand := by
  intro c
  rw [← c.ofFields_self, encode_ofFields Instr.inst2_eq_zero,
    decode_commandWord (mapWord_toNat ..) Instr.inst2_eq_zero]

/-- A word without reserved bits is its fields put together again. -/
theorem commandWord_of_fields {c : CommandWord} {op : Op} {f : Family}
    (hrsv : field c 31 16 = 0) (hop : opCode op = field c 2 0) (hf : famCode f = field c 5 3) :
    commandWord (mapWord op f) (widthOf (field c 7 6)) (Fin.ofNat 16 (field c 11 8))
      (Fin.ofNat 16 (field c 15 12)) = c := by
  refine BitVec.eq_of_toNat_eq ((rowWord_toNat (mapWord_lt op f) ..).trans ?_)
  have hi : (Fin.ofNat 16 (field c 11 8)).val = field c 11 8 := Nat.mod_eq_of_lt (field_lt c 11 8)
  have hi2 : (Fin.ofNat 16 (field c 15 12)).val = field c 15 12 :=
    Nat.mod_eq_of_lt (field_lt c 15 12)
  rw [mapWord_toNat, hop, hf, code_widthOf (field_lt c 7 6), hi, hi2]
  simp only [field_eq] at hrsv ⊢
  omega

/-- Settles O15: the decoder's conditions make the word the command word of the fields it reads. -/
theorem encodeOfDecodeIsTheRequest : Obligations.EncodeOfDecodeIsTheRequest := by
  rintro ⟨c, d⟩ x hx
  obtain ⟨hrsv, op, f, hop, hf, hinst2, rfl⟩ := decode_eq_ok_iff.mp hx
  have hzero : op ≠ .eq → Fin.ofNat 16 (field c 15 12) = 0 := fun h => by
    rw [hinst2 h]
    rfl
  rw [encode_ofFields hzero, commandWord_of_fields hrsv hop hf]

/-- A mask that keeps a whole field keeps its number. -/
theorem field_and_mask (c : CommandWord) {m : CommandWord} {hi lo : Nat}
    (hm : m.extractLsb hi lo = BitVec.allOnes _) : field (c &&& m) hi lo = field c hi lo := by
  rw [field, BitVec.extractLsb_and, hm, BitVec.and_allOnes, field]

/-- The fixed bits of the rows: no reserved bit, OP, FAM, and INST2 at 0. -/
theorem mapWord_fields (op : Op) (f : Family) :
    field (mapWord op f) 31 16 = 0 ∧ field (mapWord op f) 2 0 = opCode op ∧
      field (mapWord op f) 5 3 = famCode f ∧ field (mapWord op f) 15 12 = 0 := by
  have hop := opCode_lt op
  have hf := famCode_lt f
  simp only [field_eq, mapWord_toNat]
  omega

theorem mapWord_and_mask (op : Op) (f : Family) :
    mapWord op f &&& 0xFFFFF03F = mapWord op f ∧ mapWord op f &&& 0xFFFF003F = mapWord op f := by
  cases op <;> cases f <;> decide

/-- A word that decodes lies in the row of its command. -/
theorem matches_row_of_decode {c : CommandWord} {d : List Word} {x : Instr}
    (hx : decode ⟨c, d⟩ = .ok x) :
    x.op ≠ .eq ∧ c &&& 0xFFFFF03F = mapWord x.op x.family ∨
      x.op = .eq ∧ c &&& 0xFFFF003F = mapWord .eq x.family := by
  have hword : commandWord (mapWord x.op x.family) x.width x.inst x.inst2 = c := by
    have h := encodeOfDecodeIsTheRequest _ _ hx
    rw [← x.ofFields_self, encode_ofFields Instr.inst2_eq_zero] at h
    exact congrArg Request.cmd h
  by_cases hop : x.op = .eq
  · have h := Laws.rowWord_and_mask (mapWord x.op x.family) 0xFFFF003F x.width x.inst x.inst2
      (by decide) (by decide) (.inl (by decide))
    refine .inr ⟨hop, ?_⟩
    rw [← hword, ← hop]
    exact h.trans (mapWord_and_mask ..).2
  · have h := Laws.rowWord_and_mask (mapWord x.op x.family) 0xFFFFF03F x.width x.inst x.inst2
      (by decide) (by decide) (.inr (Instr.inst2_eq_zero hop))
    refine .inl ⟨hop, ?_⟩
    rw [← hword]
    exact h.trans (mapWord_and_mask ..).1

/-- A word in a row of the map decodes. The mask `m` keeps the reserved bits, OP and FAM, and outside EQ
INST2 too. -/
theorem exists_decode_of_matches_row {c m : CommandWord} {op : Op} {f : Family}
    (hmatch : c &&& m = mapWord op f) (hrsv : m.extractLsb 31 16 = BitVec.allOnes _)
    (hop : m.extractLsb 2 0 = BitVec.allOnes _) (hf : m.extractLsb 5 3 = BitVec.allOnes _)
    (hinst2 : op ≠ .eq → m.extractLsb 15 12 = BitVec.allOnes _) (d : List Word) :
    ∃ x, decode ⟨c, d⟩ = .ok x := by
  obtain ⟨hrsv', hop', hf', hinst2'⟩ := mapWord_fields op f
  rw [← hmatch] at hrsv' hop' hf' hinst2'
  rw [field_and_mask c hrsv] at hrsv'
  rw [field_and_mask c hop] at hop'
  rw [field_and_mask c hf] at hf'
  refine ⟨_, decode_eq_ok_iff.mpr ⟨hrsv', op, f, hop'.symm, hf'.symm, fun h => ?_, rfl⟩⟩
  rwa [field_and_mask c (hinst2 h)] at hinst2'

/-- Settles O11: the words of the map decode by `decode_commandWord`; for the others,
`matches_row_of_decode` and `exists_decode_of_matches_row` are the two directions. -/
theorem decoderAcceptsExactlyTheOpcodeMap : Obligations.DecoderAcceptsExactlyTheOpcodeMap := by
  refine ⟨fun op f w i i2 d hinst2 => decode_commandWord (mapWord_toNat op f) hinst2 w i d,
    fun c d => ⟨fun ⟨x, hx⟩ => ?_, ?_⟩⟩
  · obtain ⟨hop, h⟩ | ⟨-, h⟩ := matches_row_of_decode hx
    · exact .inl ⟨x.op, x.family, hop, h⟩
    · exact .inr ⟨x.family, h⟩
  · rintro (⟨op, f, -, h⟩ | ⟨f, h⟩)
    · exact exists_decode_of_matches_row h (by decide) (by decide) (by decide)
        (fun _ => by decide) d
    · exact exists_decode_of_matches_row h (by decide) (by decide) (by decide)
        (fun heq => absurd rfl heq) d

/-- Settles O10: each of the words evaluates to its command. -/
theorem writtenOutWordsDecode : Obligations.WrittenOutWordsDecode :=
  ⟨rfl, rfl, rfl, rfl, rfl, rfl⟩

end Sys2Proof
end

section
/-! ### The bytes of a host bus (20_memory.md R43) -/

namespace Sys2Proof

/-- Byte b of a word is its bits `[8b+7 : 8b]`. -/
theorem bytesOf_getElem? {m : Nat} (x : BitVec m) {n b : Nat} (hb : b < n) :
    (bytesOf n x)[b]? = some (x.extractLsb' (8 * b) 8) := by
  simp [bytesOf, hb]

/-- Settles O16: the data bytes are rows of eight, one row after the other. -/
theorem busBytesAreLittleEndian : Obligations.BusBytesAreLittleEndian := by
  refine ⟨fun x => ⟨bytesOf_length 8 x, fun b hb => bytesOf_getElem? x hb⟩, fun c d => ?_⟩
  have hrow : ∀ x ∈ d, (bytesOf 8 x).length = 8 := fun x _ => bytesOf_length 8 x
  refine ⟨?_, fun b hb => ?_, fun n x hx b hb => ?_⟩
  · rw [bytesOfRequest, List.length_append, bytesOf_length,
      Machine.flatMap_length_of_uniform d hrow, Nat.mul_comm]
  · rw [bytesOfRequest, List.getElem?_append_left (by simpa using hb), bytesOf_getElem? c hb]
  · have hindex : 4 + 8 * n + b - 4 = n * 8 + b := by omega
    rw [bytesOfRequest, List.getElem?_append_right (by simp; omega), bytesOf_length, hindex,
      Machine.getElem?_flatMap_of_uniform d hrow hb, hx, Option.bind_some, bytesOf_getElem? x hb]

/-- Eight bytes in front are one data word in front. -/
theorem dataOfBytes_append {bytes : List Byte} (h : bytes.length = 8) (rest : List Byte) :
    dataOfBytes (bytes ++ rest) =
      (dataOfBytes rest).map (BitVec.ofNat 64 (numberOfBytes bytes) :: ·) := by
  match bytes, h with
  | [_, _, _, _, _, _, _, _], _ => rfl

/-- The bytes of a word carry that word. -/
theorem ofNat_numberOfBytes_bytesOf {m n : Nat} (hm : m = 8 * n) (x : BitVec m) :
    BitVec.ofNat m (numberOfBytes (bytesOf n x)) = x := by
  subst hm
  rw [numberOfBytes_bytesOf, Nat.mod_eq_of_lt x.isLt, BitVec.ofNat_toNat, BitVec.setWidth_eq]

/-- The bytes of data words carry those data words. -/
theorem dataOfBytes_flatMap_bytesOf (d : List Word) :
    dataOfBytes (d.flatMap (bytesOf 8)) = some d := by
  induction d with
  | nil => rfl
  | cons x rest ih =>
    rw [List.flatMap_cons, dataOfBytes_append (bytesOf_length 8 x), ih,
      ofNat_numberOfBytes_bytesOf (m := 64) (n := 8) rfl x, Option.map_some]

/-- Four bytes in front are the command word. -/
theorem requestOfBytes_append {bytes rest : List Byte} {d : List Word} (h : bytes.length = 4)
    (hrest : dataOfBytes rest = some d) :
    requestOfBytes (bytes ++ rest) = .ok ⟨BitVec.ofNat 32 (numberOfBytes bytes), d⟩ := by
  match bytes, h with
  | [_, _, _, _], _ => simp [requestOfBytes, hrest]

/-- The bytes of a request carry that request. -/
theorem requestOfBytes_bytesOfRequest (r : Request) :
    requestOfBytes (bytesOfRequest r) = .ok r := by
  rw [bytesOfRequest, requestOfBytes_append (bytesOf_length 4 r.cmd)
    (dataOfBytes_flatMap_bytesOf r.data), ofNat_numberOfBytes_bytesOf (m := 32) (n := 4) rfl r.cmd]

/-- Settles O17: the bytes carry the request, and the request decodes to the command by O14. -/
theorem decodeOfEncodedBytesIsTheCommand : Obligations.DecodeOfEncodedBytesIsTheCommand := by
  intro c
  rw [decodeBytes, encodeBytes, requestOfBytes_bytesOfRequest]
  exact decodeOfEncodeIsTheCommand c

end Sys2Proof
end

section
/-! ### Steps: what one step can do, and what every step keeps (70_reset_and_hazards.md R160 to R163) -/

namespace Sys2Proof.Machine

open Sys2Proof.Statements

variable {s t : State} {r : Request} {rest : List Input}

/-- A request, whether or not its word decodes, is answered once; parameters, port and draws stay. -/
theorem performRequest_frame (r : Request) (s : State) :
    ∃ t, performRequest r s = .next t ∧ t.params = s.params ∧ t.inputs = s.inputs ∧
      t.draws = s.draws := by
  rw [performRequest]
  cases decode r with
  | error e => exact ⟨_, rfl, rfl, rfl, rfl⟩
  | ok c =>
    obtain ⟨t, -, ht, -⟩ := exec_answers_once c s
    obtain ⟨⟨-, hframe⟩, -⟩ := commandsWriteOnlyTheirOwnUnit c s t ht
    exact ⟨t, ht, hframe⟩

/-- A reset forgets what a request in flight did to the units, and its response. -/
theorem resetInFlight_eq (performed : Bool) (r : Request) (s : State) :
    resetInFlight performed r s = .next s.resetUnits := by
  cases performed with
  | false => rfl
  | true =>
    obtain ⟨t, ht, hparams, hinputs, hdraws⟩ := performRequest_frame r s
    simp [resetInFlight, ht, State.resetUnits, hparams, hinputs, hdraws]

theorem step_of_reset_eq (h : s.inputs = .reset :: rest) :
    step s = .next ({ s with inputs := rest } : State).resetUnits := by
  simp [step, takeInput, h, serveInput]

theorem step_of_resetInFlight (h : s.inputs = .resetInFlight r :: rest) :
    step s = resetInFlight (Config.inFlightPerformed s.draws) r
      { s with inputs := rest, draws := s.draws + 1 } := by
  simp [step, takeInput, h, serveInput]

/-- Everything a step can do: nothing, when the port is empty; answer an illegal word; perform a command;
reset the units. -/
theorem step_cases (s : State) :
    step s = .next s ∨
    (∃ rest, step s = .next (({ s with inputs := rest } : State).answer .errIllegal [])) ∨
    (∃ rest c, step s = exec c { s with inputs := rest }) ∨
    ∃ rest n, step s = .next ({ s with inputs := rest, draws := n } : State).resetUnits := by
  match hin : s.inputs with
  | [] => exact .inl (step_of_nil hin)
  | .request r :: rest =>
    cases hc : decode r with
    | error e => exact .inr (.inl ⟨rest, step_of_illegal hin hc⟩)
    | ok c => exact .inr (.inr (.inl ⟨rest, c, step_of_decoded hin hc⟩))
  | .reset :: rest => exact .inr (.inr (.inr ⟨rest, s.draws, step_of_reset_eq hin⟩))
  | .resetInFlight r :: rest =>
    exact .inr (.inr (.inr ⟨rest, s.draws + 1,
      (step_of_resetInFlight hin).trans (resetInFlight_eq ..)⟩))

/-! #### The canonical form -/

/-- Storing a seeded unit that exists and holds W lanes, and answering, keeps the canonical form. -/
theorem FamilyOps.Lawful.wellFormed_store_answer {α : Type} {F : FamilyOps α} {f : Family}
    (L : F.Lawful f) (hs : s.WellFormed) {w : Width} {i : Inst} {lanes : List α}
    (hexist : unitsExist s.params w [i] = true) (hlanes : lanes.length = w.lanes) (st : Status)
    (d : List Word) :
    ((F.setBank s (Bank.store (F.bank s) w i ⟨true, lanes⟩)).answer st d).WellFormed :=
  L.wellFormed_setBank s _ hs
    (Bank.store_wellFormed _ w i _ (L.wellFormed_bank s hs) rfl hlanes hexist)

/-- Every command keeps the canonical form: LOAD and NEXT store W lanes, READ and EQ store nothing. -/
theorem exec_wellFormed (c : Instr) (hs : s.WellFormed) (ht : exec c s = .next t) :
    t.WellFormed := by
  induction c using instr_induction with
  | load F f L w i d hexec =>
    rw [hexec] at ht
    obtain ⟨e, -, h⟩ | ⟨hexist, hlength, h⟩ := L.loadUnit_eq w i d s
    · obtain rfl := Host.Outcome.next.inj (h.symm.trans ht)
      exact hs
    · obtain rfl := Host.Outcome.next.inj (h.symm.trans ht)
      exact L.wellFormed_store_answer hs hexist
        (L.ofData_length _ _ (by rwa [L.wordCount_eq])) _ _
  | next F f L w i d hexec =>
    rw [hexec] at ht
    obtain ⟨e, -, h⟩ | ⟨hexist, -, hseeded, h⟩ := FamilyOps.Lawful.nextUnit_eq F w i d s
    · obtain rfl := Host.Outcome.next.inj (h.symm.trans ht)
      exact hs
    · obtain rfl := Host.Outcome.next.inj (h.symm.trans ht)
      exact L.wellFormed_store_answer hs hexist
        (by rw [List.length_map, Bank.lanes_length _ _ _ (L.wellFormed_bank s hs) hseeded]) _ _
  | read F f L w i d hexec =>
    obtain ⟨st, out, h⟩ := readUnit_eq_answer F w i d s
    obtain rfl := Host.Outcome.next.inj (h.symm.trans ((hexec s).symm.trans ht))
    exact hs
  | eq F f L w i i2 d hexec =>
    obtain ⟨st, out, h⟩ := eqUnits_eq_answer F w i i2 d s
    obtain rfl := Host.Outcome.next.inj (h.symm.trans ((hexec s).symm.trans ht))
    exact hs

theorem State.resetUnits_wellFormed (s : State) : s.resetUnits.WellFormed :=
  ⟨Bank.nil_wellFormed _, Bank.nil_wellFormed _, Bank.nil_wellFormed _, Bank.nil_wellFormed _,
    Bank.nil_wellFormed _⟩

/-- Settles O40: no unit is listed after reset. -/
theorem resetIsWellFormed : Obligations.ResetIsWellFormed :=
  State.resetUnits_wellFormed .reset

/-- Settles O41, by the four things `step_cases` says a step can do. -/
theorem everyStepKeepsTheCanonicalForm : Obligations.EveryStepKeepsTheCanonicalForm := by
  intro s t hs ht
  obtain h | ⟨rest, h⟩ | ⟨rest, c, h⟩ | ⟨rest, n, h⟩ := step_cases s
  · obtain rfl := Host.Outcome.next.inj (h.symm.trans ht)
    exact hs
  · obtain rfl := Host.Outcome.next.inj (h.symm.trans ht)
    exact hs
  · exact exec_wellFormed c (s := { s with inputs := rest }) hs (h.symm.trans ht)
  · obtain rfl := Host.Outcome.next.inj (h.symm.trans ht)
    exact State.resetUnits_wellFormed _

/-- Settles O42: a unit in canonical form has W lanes of m(f) words when it is seeded, and no lane
otherwise. -/
theorem seededExactlyWhenTheWordsHaveValues : Obligations.SeededExactlyWhenTheWordsHaveValues := by
  intro s hs f w i
  obtain ⟨α, -, F, L, -⟩ := exists_lawful f
  obtain ⟨hseeded, -, hexist⟩ | hreset :=
    Bank.unitAt_wellFormed (F.bank s) w i (L.wellFormed_bank s hs)
  · rw [← L.isSeeded_eq] at hseeded
    refine ⟨fun _ => hexist, fun j k => ⟨fun hsome => ?_, fun ⟨_, hj, hk⟩ => ?_⟩⟩
    · obtain ⟨hlanes, hwords⟩ := hs.unit_shape hseeded
      obtain ⟨x, hx⟩ := Option.isSome_iff_exists.mp hsome
      obtain ⟨l, hl, hlx⟩ := Option.bind_eq_some_iff.mp hx
      obtain ⟨hk, rfl⟩ := List.getElem?_eq_some_iff.mp hl
      obtain ⟨hj, -⟩ := List.getElem?_eq_some_iff.mp hlx
      exact ⟨hseeded, hwords _ (List.getElem_mem hk) ▸ hj, hlanes ▸ hk⟩
    · obtain ⟨x, hx⟩ := hs.exists_word hseeded hj hk
      rw [hx, Option.isSome_some]
  · simp [L.isSeeded_eq, L.word?_eq, hreset, UnitRegs.reset]

/-! #### Requests, resets and parameters -/

/-- Settles O2, by the value of the step. -/
theorem resetEventClearsEveryUnit : Obligations.ResetEventClearsEveryUnit :=
  fun _ _ hin => ⟨_, step_of_reset_eq hin,
    fun f w i => ⟨State.resetUnits_isSeeded _ f w i, State.resetUnits_word? _ f w i⟩,
    rfl, rfl, rfl, rfl⟩

/-- Settles O3: both outcomes are `resetUnits`. -/
theorem resetInFlightLeavesTheSameBlockEitherWay :
    Obligations.ResetInFlightLeavesTheSameBlockEitherWay :=
  fun s r => ⟨⟨_, resetInFlight_eq true r s, resetInFlight_eq false r s,
    fun f w i => ⟨State.resetUnits_isSeeded s f w i, State.resetUnits_word? s f w i⟩,
    rfl, rfl, rfl⟩, fun _ hin => step_of_resetInFlight hin⟩

/-- Settles O4: the port hands the request to the decoder, and the command to `exec`. -/
theorem stepRunsTheDecodedCommand : Obligations.StepRunsTheDecodedCommand :=
  fun _ _ _ _ hin hc => step_of_decoded hin hc

/-- Settles O5: an empty port gives the step nothing to serve. -/
theorem stepWithNothingOnThePortChangesNothing :
    Obligations.StepWithNothingOnThePortChangesNothing :=
  fun _ hin => step_of_nil hin

/-- Settles O6: an illegal word is answered by the port, any other by its command. -/
theorem everyRequestGetsExactlyOneResponse : Obligations.EveryRequestGetsExactlyOneResponse :=
  fun _ _ _ hin => step_of_request hin

/-- Settles O8: of the four things a step can do only a command could stop, and every command completes. -/
theorem noStepEverStops : Obligations.NoStepEverStops := by
  intro s
  obtain h | ⟨rest, h⟩ | ⟨rest, c, h⟩ | ⟨rest, n, h⟩ := step_cases s
  · exact ⟨_, h⟩
  · exact ⟨_, h⟩
  · obtain ⟨t, -, ht, -⟩ := exec_answers_once c { s with inputs := rest }
    exact ⟨t, h.trans ht⟩
  · exact ⟨_, h⟩

/-- Settles O37: of the four things a step can do only a command could write the parameters, and by O35 none
does. -/
theorem noStepChangesTheParameters : Obligations.NoStepChangesTheParameters := by
  intro s t ht
  obtain h | ⟨rest, h⟩ | ⟨rest, c, h⟩ | ⟨rest, n, h⟩ := step_cases s
  · obtain rfl := Host.Outcome.next.inj (h.symm.trans ht)
    rfl
  · obtain rfl := Host.Outcome.next.inj (h.symm.trans ht)
    rfl
  · obtain ⟨⟨-, hparams, -⟩, -⟩ := commandsWriteOnlyTheirOwnUnit c _ t (h.symm.trans ht)
    exact hparams
  · obtain rfl := Host.Outcome.next.inj (h.symm.trans ht)
    rfl

/-- A command carries the data words of its request. -/
theorem data_of_decode {c : Instr} (hc : decode r = .ok c) : c.data = r.data := by
  obtain ⟨-, -, -, -, -, -, hdata⟩ := decodedFieldsAreThoseOfTheWord.2 r.cmd r.data c hc
  exact hdata

/-- Settles O30: the clauses are the checks of the command, in R64's order. -/
theorem statusIsTheFirstFailingCheck : Obligations.StatusIsTheFirstFailingCheck := by
  refine fun s r rest hin => ⟨fun e he => step_of_illegal hin he, fun c hc => ?_⟩
  rw [step_of_decoded hin hc, ← data_of_decode hc]
  refine ⟨fun habsent => exec_absent habsent,
    fun hexist hlength => exec_wrong_length hexist hlength,
    fun hexist hlength hop ⟨i, hi, hclear⟩ => exec_unseeded hop hi hexist ?_ hclear,
    fun hexist hlength hread => ?_⟩
  · simpa [dataCount_eq, hop] using hlength
  · exact exec_completes (s := { s with inputs := rest }) hexist hlength
      fun hop => hread.resolve_left hop

/-- Settles O34, by the table of R141. -/
theorem statusCodesAreTheTables : Obligations.StatusCodesAreTheTables :=
  ⟨rfl, rfl, rfl, rfl, rfl⟩

end Sys2Proof.Machine
end

section
/-! ### Repeated commands and noninterference (20_memory.md R46, 70_reset_and_hazards.md R167) -/

namespace Sys2Proof.Machine

open Sys2Proof.Statements

/-! #### The four operations that pass their checks -/

section

variable {α : Type} {F : FamilyOps α} {f : Family} {s t : State} {w : Width} {i i2 : Inst}

/-- A seeded unit is its flag and its lanes. -/
theorem unitAt_of_seeded {b : Bank α} (h : (Bank.unitAt b w i).seeded = true) :
    Bank.unitAt b w i = ⟨true, (Bank.unitAt b w i).lanes⟩ :=
  congrArg (UnitRegs.mk · _) h

theorem loadUnit_of_checks (L : F.Lawful f) {d : List Word}
    (hexist : unitsExist s.params w [i] = true) (hlength : d.length = f.wordCount * w.lanes) :
    loadUnit F w i d s = .next ((F.setBank s
      (Bank.store (F.bank s) w i ⟨true, F.ofData w.lanes d⟩)).answer .ok []) := by
  obtain ⟨e, he, -⟩ | ⟨-, -, h⟩ := L.loadUnit_eq w i d s
  · rw [hlength, firstError_none hexist rfl] at he
    cases he
  · exact h

theorem readUnit_of_unitAt {lanes : List α} (hexist : unitsExist s.params w [i] = true)
    (hunit : Bank.unitAt (F.bank s) w i = ⟨true, lanes⟩) :
    readUnit F w i [] s = .next (s.answer .ok (F.toData lanes)) := by
  obtain ⟨e, he, -⟩ | ⟨-, -, -, h⟩ := FamilyOps.Lawful.readUnit_eq F w i [] s
  · rw [hunit, List.length_nil, firstError_none hexist rfl] at he
    cases he
  · rw [h, hunit]

theorem eqUnits_of_unitAt [DecidableEq α] {lanes lanes2 : List α}
    (hexist : unitsExist s.params w [i, i2] = true)
    (hunit : Bank.unitAt (F.bank s) w i = ⟨true, lanes⟩)
    (hunit2 : Bank.unitAt (F.bank s) w i2 = ⟨true, lanes2⟩) :
    eqUnits F w i i2 [] s =
      .next (s.answer .ok [if lanes = lanes2 then 1 else 0]) := by
  obtain ⟨e, he, -⟩ | ⟨-, -, -, -, h⟩ := FamilyOps.Lawful.eqUnits_eq F w i i2 [] s
  · rw [hunit, hunit2, List.length_nil, Bool.and_self, firstError_none hexist rfl] at he
    cases he
  · rw [h, hunit, hunit2]

end

variable {c : Instr} {s s' t : State}

/-- A command that passes its checks names existing units, carries the data words of R63, and, unless it is a
LOAD, names seeded units. -/
theorem checks_of_firstFailure_none (h : firstFailure c s = none) :
    unitsExist s.params c.width c.insts = true ∧ c.data.length = c.dataCount ∧
      (c.op ≠ .load → ∀ i ∈ c.insts, s.isSeeded c.family c.width i = true) := by
  obtain ⟨hexist, hlength, hseeded⟩ := firstError_eq_none_iff.mp h
  exact ⟨hexist, hlength, by simpa [Decidable.or_iff_not_imp_left] using hseeded⟩

/-! #### A command performed twice -/

/-- LOAD, READ and EQ performed again do nothing but give their answer again. -/
theorem exec_repeat (hop : c.op ≠ .next) (s : State) :
    ∃ t a, exec c s = .next t ∧ t.responses = s.responses ++ [a] ∧
      exec c t = .next (t.answer a.status a.data) := by
  cases hfail : firstFailure c s with
  | some e =>
    exact ⟨_, ⟨e, []⟩, exec_of_firstFailure hfail, rfl,
      exec_of_firstFailure (s := s.answer e []) hfail⟩
  | none =>
    obtain ⟨hexist, hlength, hseeded⟩ := checks_of_firstFailure_none hfail
    induction c using instr_induction with
    | load F f L w i d hexec =>
      simp only [Instr.loadOf_width, Instr.loadOf_insts] at hexist
      have hd : d.length = f.wordCount * w.lanes := by simpa [dataCount_eq] using hlength
      obtain ⟨hok, ⟨-, hparams, -⟩, -⟩ := L.store_answer_ok s w i (F.ofData w.lanes d) []
      refine ⟨_, ⟨.ok, []⟩, (hexec s).trans (loadUnit_of_checks L hexist hd), hok, ?_⟩
      rw [hexec, loadUnit_of_checks L (hparams.symm ▸ hexist) hd, L.bank_answer, L.bank_setBank,
        Bank.store_store, L.setBank_answer, L.setBank_setBank]
    | next F f L w i d hexec => simp at hop
    | read F f L w i d hexec =>
      simp only [Instr.readOf_width, Instr.readOf_insts] at hexist
      obtain rfl : d = [] := by simpa [dataCount_eq] using hlength
      have hunit := unitAt_of_seeded (b := F.bank s) (w := w) (i := i)
        (by simpa [L.isSeeded_eq] using hseeded)
      refine ⟨_, ⟨.ok, _⟩, (hexec s).trans (readUnit_of_unitAt hexist hunit), rfl, ?_⟩
      rw [hexec]
      exact readUnit_of_unitAt hexist (by rwa [L.bank_answer])
    | eq F f L w i i2 d hexec =>
      simp only [Instr.eqOf_width, Instr.eqOf_insts] at hexist
      obtain rfl : d = [] := by simpa [dataCount_eq] using hlength
      obtain ⟨hi, hi2⟩ : (Bank.unitAt (F.bank s) w i).seeded = true ∧
          (Bank.unitAt (F.bank s) w i2).seeded = true := by simpa [L.isSeeded_eq] using hseeded
      have hunit := unitAt_of_seeded hi
      have hunit2 := unitAt_of_seeded hi2
      refine ⟨_, ⟨.ok, _⟩, (hexec s).trans (eqUnits_of_unitAt hexist hunit hunit2), rfl, ?_⟩
      rw [hexec]
      exact eqUnits_of_unitAt hexist (by rwa [L.bank_answer]) (by rwa [L.bank_answer])

/-- Settles O38: by `exec_repeat` the second performance only answers. -/
theorem repeatingAnythingButNextChangesNothingMore :
    Obligations.RepeatingAnythingButNextChangesNothingMore := by
  intro c s t hop ht
  obtain ⟨t', a, h, hresponses, hagain⟩ := exec_repeat hop s
  obtain rfl := Host.Outcome.next.inj (h.symm.trans ht)
  exact ⟨a, _, hresponses, hagain, rfl, fun f w i => State.answer_unit ..⟩

/-! #### Two states that agree on what a command names -/

/-- The states `s` and `s'` agree on all that `c` may look at: the parameters, the SEEDED flags of the units it
names, and their words where they are seeded. -/
def AgreeOnNamed (c : Instr) (s s' : State) : Prop :=
  s.params = s'.params ∧
    ∀ i ∈ c.insts, s.isSeeded c.family c.width i = s'.isSeeded c.family c.width i ∧
      (s.isSeeded c.family c.width i = true →
        s.unit c.family c.width i = s'.unit c.family c.width i)

/-- The same check fails, or none, in states that agree. -/
theorem AgreeOnNamed.firstFailure_eq (h : AgreeOnNamed c s s') :
    firstFailure c s = firstFailure c s' := by
  obtain ⟨hparams, hnamed⟩ := h
  have hall : c.insts.all (s.isSeeded c.family c.width) =
      c.insts.all (s'.isSeeded c.family c.width) := by
    rw [Bool.eq_iff_iff, List.all_eq_true, List.all_eq_true]
    exact forall₂_congr fun i hi => by rw [(hnamed i hi).1]
  rw [firstFailure, firstFailure, hparams, hall]

/-- A named unit that is seeded holds the same lanes in states that agree. -/
theorem AgreeOnNamed.unitAt_eq {α : Type} {F : FamilyOps α} {f : Family}
    (h : AgreeOnNamed c s s') (L : F.Lawful f) (w : Width) (i : Inst)
    (hf : c.family = f) (hw : c.width = w) (hi : i ∈ c.insts)
    (hseeded : (Bank.unitAt (F.bank s) w i).seeded = true) :
    ∃ lanes, Bank.unitAt (F.bank s) w i = ⟨true, lanes⟩ ∧
      Bank.unitAt (F.bank s') w i = ⟨true, lanes⟩ := by
  subst hf hw
  have hunit := unitAt_of_seeded hseeded
  rw [← L.isSeeded_eq] at hseeded
  exact ⟨_, hunit, L.unitAt_eq_of_unit_eq ((h.2 i hi).2 hseeded) ▸ hunit⟩

/-- States that agree on what a command names give one answer, and where that is OK the same unit. -/
theorem AgreeOnNamed.exec_eq (h : AgreeOnNamed c s s') :
    ∃ t t' a, exec c s = .next t ∧ exec c s' = .next t' ∧
      t.responses = s.responses ++ [a] ∧ t'.responses = s'.responses ++ [a] ∧
      (a.status = .ok →
        t.unit c.family c.width c.inst = t'.unit c.family c.width c.inst) := by
  cases hfail : firstFailure c s with
  | some e =>
    refine ⟨_, _, ⟨e, []⟩, exec_of_firstFailure hfail,
      exec_of_firstFailure (h.firstFailure_eq ▸ hfail), rfl, rfl, ?_⟩
    rintro rfl
    exact absurd hfail firstError_ne_ok
  | none =>
    obtain ⟨hexist, hlength, hseeded⟩ := checks_of_firstFailure_none hfail
    have hexist' := h.1 ▸ hexist
    induction c using instr_induction with
    | load F f L w i d hexec =>
      simp only [Instr.loadOf_width, Instr.loadOf_insts] at hexist hexist'
      have hd : d.length = f.wordCount * w.lanes := by simpa [dataCount_eq] using hlength
      obtain ⟨t, ht, -, hunit, hresponses⟩ := L.loadUnit_completes hexist hd
      obtain ⟨t', ht', -, hunit', hresponses'⟩ := L.loadUnit_completes hexist' hd
      refine ⟨t, t', _, (hexec s).trans ht, (hexec s').trans ht', hresponses, hresponses',
        fun _ => ?_⟩
      simp [L.unit_eq, hunit, hunit']
    | next F f L w i d hexec =>
      simp only [Instr.nextOf_width, Instr.nextOf_insts] at hexist hexist'
      obtain rfl : d = [] := by simpa [dataCount_eq] using hlength
      obtain ⟨lanes, hs, hs'⟩ := h.unitAt_eq L w i (by simp) (by simp) (by simp)
        (by simpa [L.isSeeded_eq] using hseeded)
      obtain ⟨t, ht, -, hunit, hresponses⟩ := L.nextUnit_completes hexist hs
      obtain ⟨t', ht', -, hunit', hresponses'⟩ := L.nextUnit_completes hexist' hs'
      refine ⟨t, t', _, (hexec s).trans ht, (hexec s').trans ht', hresponses, hresponses',
        fun _ => ?_⟩
      simp [L.unit_eq, hunit, hunit']
    | read F f L w i d hexec =>
      simp only [Instr.readOf_width, Instr.readOf_insts] at hexist hexist'
      obtain rfl : d = [] := by simpa [dataCount_eq] using hlength
      obtain ⟨lanes, hs, hs'⟩ := h.unitAt_eq L w i (by simp) (by simp) (by simp)
        (by simpa [L.isSeeded_eq] using hseeded)
      refine ⟨_, _, ⟨.ok, _⟩, (hexec s).trans (readUnit_of_unitAt hexist hs),
        (hexec s').trans (readUnit_of_unitAt hexist' hs'), rfl, rfl, fun _ => ?_⟩
      simp [L.unit_eq, L.bank_answer, hs, hs']
    | eq F f L w i i2 d hexec =>
      simp only [Instr.eqOf_width, Instr.eqOf_insts] at hexist hexist'
      obtain rfl : d = [] := by simpa [dataCount_eq] using hlength
      obtain ⟨hi, hi2⟩ : (Bank.unitAt (F.bank s) w i).seeded = true ∧
          (Bank.unitAt (F.bank s) w i2).seeded = true := by simpa [L.isSeeded_eq] using hseeded
      obtain ⟨lanes, hs, hs'⟩ := h.unitAt_eq L w i (by simp) (by simp) (by simp) hi
      obtain ⟨lanes2, hs2, hs2'⟩ := h.unitAt_eq L w i2 (by simp) (by simp) (by simp) hi2
      refine ⟨_, _, ⟨.ok, _⟩, (hexec s).trans (eqUnits_of_unitAt hexist hs hs2),
        (hexec s').trans (eqUnits_of_unitAt hexist' hs' hs2'), rfl, rfl, fun _ => ?_⟩
      simp [L.unit_eq, L.bank_answer, hs, hs']

/-- Settles O39, with its premise under the name `AgreeOnNamed`. -/
theorem answersDependOnlyOnTheNamedSeededUnits :
    Obligations.AnswersDependOnlyOnTheNamedSeededUnits :=
  fun _ _ _ hparams hnamed => AgreeOnNamed.exec_eq ⟨hparams, hnamed⟩

end Sys2Proof.Machine
end

section
/-! ### Sequences of commands (10_state.md R27, R30, 45_equality_and_extraction.md R132, R133) -/

namespace Sys2Proof.Machine

open Sys2Proof.Statements

/-- What completes goes on with the commands after it. -/
theorem execAll_append_of_next {cs : List Instr} {s t : State} (h : execAll cs s = .next t)
    (rest : List Instr) : execAll (cs ++ rest) s = execAll rest t := by
  induction cs generalizing s with
  | nil =>
    obtain rfl := Host.Outcome.next.inj h
    rfl
  | cons c cs ih =>
    obtain ⟨u, -, hu, -⟩ := exec_answers_once c s
    rw [execAll_cons_of_next hu] at h
    rw [List.cons_append, execAll_cons_of_next hu, ih h]

theorem unitsExist_pair {p : Config.Params} {w : Width} {i i2 : Inst} :
    unitsExist p w [i, i2] = true ↔ unitsExist p w [i] = true ∧ unitsExist p w [i2] = true := by
  simp only [unitsExist, List.all_cons, List.all_nil, Bool.and_true, Bool.and_eq_true]
  tauto

/-! #### READ after LOAD and after NEXT -/

/-- Word j of lane k of W lanes of m words has a place among the m*W data words. -/
theorem wordMajor_index_lt {m W j k : Nat} (hj : j < m) (hk : k < W) : j * W + k < m * W :=
  calc j * W + k < (j + 1) * W := by rw [Nat.succ_mul]; omega
    _ ≤ m * W := Nat.mul_le_mul_right _ hj

/-- The lanes that LOAD makes of its data words hold those data words (R62). -/
theorem FamilyOps.Lawful.toData_ofData {α : Type} {F : FamilyOps α} {f : Family} (L : F.Lawful f)
    {W : Nat} {d : List Word} (hd : d.length = F.wordCount * W) : F.toData (F.ofData W d) = d := by
  have hlanes := L.ofData_length W d hd
  refine wordMajor_ext (by rw [L.toData_length, hlanes]) hd fun j hj k hk => ?_
  rw [L.toData_word _ W hlanes j hj k hk, L.ofData_word W d hd j hj k hk]

/-- Settles O54: READ answers the words of the lanes that LOAD made. -/
theorem readAfterLoadReturnsTheLoadedWords : Obligations.ReadAfterLoadReturnsTheLoadedWords := by
  intro s f w i d hexist hlength
  obtain ⟨α, -, F, L, hload, -, hread, -⟩ := exists_lawful f
  obtain ⟨u, hu, hparams, hunit, hresponses⟩ := L.loadUnit_completes hexist hlength
  have hanswer := readUnit_of_unitAt (F := F) (hparams.symm ▸ hexist) hunit
  rw [L.toData_ofData (by rwa [L.wordCount_eq])] at hanswer
  refine ⟨u.answer .ok d, ?_, ?_⟩
  · rw [execAll_cons_of_next ((hload ..).trans hu), execAll_cons_of_next ((hread ..).trans hanswer),
      execAll]
  · rw [State.answer_responses, hresponses, List.append_assoc, List.singleton_append]

/-- The outputs of XS64 lanes are the data words READ makes of the stepped lanes (R91). -/
theorem xs64_outputs_eq_toData (lanes : List Word) :
    (lanes.map fun l => (xs64Ops.next l).2) =
      xs64Ops.toData (lanes.map fun l => (xs64Ops.next l).1) := rfl

/-- Settles O53: NEXT answers the outputs of the lanes, which are the words READ then finds in them. -/
theorem readAfterNextXs64ReturnsTheOutputs : Obligations.ReadAfterNextXs64ReturnsTheOutputs := by
  intro s w i hexist hseeded
  rw [xs64Ops_lawful.isSeeded_eq] at hseeded
  generalize hlanes : (Bank.unitAt (xs64Ops.bank s) w i).lanes = lanes
  obtain ⟨u, hu, hparams, hunit, hresponses⟩ :=
    xs64Ops_lawful.nextUnit_completes hexist (unitAt_of_seeded hseeded)
  rw [hlanes] at hunit hresponses
  have hanswer := readUnit_of_unitAt (hparams.symm ▸ hexist) hunit
  rw [← xs64_outputs_eq_toData] at hanswer
  refine ⟨_, lanes.map fun l => (xs64Ops.next l).2,
    (execAll_cons_of_next (c := .nextXs64 w i []) hu _).trans
      (execAll_cons_of_next (c := .readXs64 w i []) hanswer []), ?_⟩
  rw [State.answer_responses, hresponses, List.append_assoc, List.singleton_append]

/-! #### NEXTs of several units of one family and width -/

/-- What NEXT makes of a unit: every lane stepped. -/
def FamilyOps.stepUnit {α : Type} (F : FamilyOps α) (u : UnitRegs α) : UnitRegs α :=
  ⟨u.seeded, u.lanes.map fun l => (F.next l).1⟩

theorem FamilyOps.stepUnit_iterate {α : Type} (F : FamilyOps α) (n : Nat) (b : Bool)
    (lanes : List α) :
    F.stepUnit^[n] ⟨b, lanes⟩ = ⟨b, lanes.map (fun l => (F.next l).1)^[n]⟩ := by
  induction n generalizing lanes with
  | zero => simp
  | succ n ih => simp [stepUnit, ih, Function.comp_def]

section

variable {α : Type} {F : FamilyOps α} {f : Family} (L : F.Lawful f) {w : Width}

include L

/-- A command of a family leaves the registers of every other unit of that family. -/
theorem FamilyOps.Lawful.unitAt_exec_other {c : Instr} {s t : State}
    (ht : exec c s = .next t) {j : Inst} (hj : j ≠ c.inst) :
    Bank.unitAt (F.bank t) w j = Bank.unitAt (F.bank s) w j := by
  obtain ⟨⟨hother, -⟩, -⟩ := commandsWriteOnlyTheirOwnUnit c s t ht
  exact L.unitAt_eq_of_unit_eq (hother f w j fun h => hj (by simpa using congrArg (·.2.2) h))

/-- NEXTs of existing, seeded units, in any order: all complete, and each unit is stepped as often as it is
named. -/
theorem FamilyOps.Lawful.execAll_nexts
    (hexec : ∀ i s, exec (.nextOf f w i []) s = nextUnit F w i [] s) (is : List Inst) {s : State}
    (hexist : ∀ i ∈ is, unitsExist s.params w [i] = true)
    (hseeded : ∀ i ∈ is, (Bank.unitAt (F.bank s) w i).seeded = true) :
    ∃ t as, execAll (is.map fun i => .nextOf f w i []) s = .next t ∧ t.params = s.params ∧
      t.responses = s.responses ++ as ∧
      ∀ j, Bank.unitAt (F.bank t) w j = F.stepUnit^[is.count j] (Bank.unitAt (F.bank s) w j) := by
  induction is generalizing s with
  | nil => exact ⟨s, [], rfl, rfl, by simp, fun _ => rfl⟩
  | cons i is ih =>
    obtain ⟨hi, his⟩ := List.forall_mem_cons.mp hexist
    obtain ⟨hiseeded, hisseeded⟩ := List.forall_mem_cons.mp hseeded
    obtain ⟨u, hu, hparams, hstepped, hresponses⟩ :=
      L.nextUnit_completes hi (unitAt_of_seeded hiseeded)
    rw [← hexec] at hu
    have hunits : ∀ j, Bank.unitAt (F.bank u) w j =
        F.stepUnit^[if i = j then 1 else 0] (Bank.unitAt (F.bank s) w j) := fun j => by
      split
      · next hij =>
        subst hij
        rw [Function.iterate_one, hstepped, FamilyOps.stepUnit, hiseeded]
      · next hij =>
        exact L.unitAt_exec_other hu (by simpa [eq_comm] using hij)
    have hkeep : ∀ j ∈ is, (Bank.unitAt (F.bank u) w j).seeded = true := fun j hj => by
      rw [hunits, unitAt_of_seeded (hisseeded j hj), FamilyOps.stepUnit_iterate]
    obtain ⟨t, as, ht, htparams, htresponses, htunits⟩ := ih (hparams.symm ▸ his) hkeep
    refine ⟨t, ⟨.ok, (Bank.unitAt (F.bank s) w i).lanes.map fun l => (F.next l).2⟩ :: as, ?_,
      htparams.trans hparams, ?_, fun j => ?_⟩
    · rw [List.map_cons, execAll_cons_of_next hu, ht]
    · rw [htresponses, hresponses, List.append_assoc, List.singleton_append]
    · rw [htunits, hunits, ← Function.iterate_add_apply, List.count_cons]
      simp

end

/-- The turns as instances: `true` names `i`, `false` names `i2`. -/
def turnInsts (i i2 : Inst) (turns : List Bool) : List Inst :=
  turns.map fun b => if b then i else i2

theorem eq_or_eq_of_mem_turnInsts {i i2 j : Inst} {turns : List Bool}
    (h : j ∈ turnInsts i i2 turns) : j = i ∨ j = i2 := by
  obtain ⟨b, -, rfl⟩ := List.mem_map.mp h
  cases b
  · exact .inr rfl
  · exact .inl rfl

/-- Different instances have as many turns as there are `true` and `false`. -/
theorem count_turnInsts {i i2 : Inst} (h : i ≠ i2) (turns : List Bool) :
    (turnInsts i i2 turns).count i = turns.count true ∧
      (turnInsts i i2 turns).count i2 = turns.count false := by
  induction turns with
  | nil => exact ⟨rfl, rfl⟩
  | cons b turns ih =>
    obtain ⟨ih1, ih2⟩ := ih
    rw [turnInsts] at ih1 ih2 ⊢
    cases b with
    | true => simp [ih1, ih2, h]
    | false => simp [ih1, ih2, h.symm]

/-- Equally many turns for both are equally many NEXTs, also when the two instances are one. -/
theorem count_turnInsts_eq (i i2 : Inst) {turns : List Bool}
    (h : turns.count true = turns.count false) :
    (turnInsts i i2 turns).count i = (turnInsts i i2 turns).count i2 := by
  by_cases hii2 : i = i2
  · rw [hii2]
  · obtain ⟨htrue, hfalse⟩ := count_turnInsts hii2 turns
    rw [htrue, hfalse, h]

/-- LOADs of two existing units with the same words leave the same lanes in both. -/
theorem FamilyOps.Lawful.execAll_load_load {α : Type} {F : FamilyOps α} {f : Family}
    (L : F.Lawful f) (hload : ∀ w i d s, exec (.loadOf f w i d) s = loadUnit F w i d s)
    {s : State} {w : Width} {i i2 : Inst} {d : List Word}
    (hexist : unitsExist s.params w [i, i2] = true) (hlength : d.length = f.wordCount * w.lanes) :
    ∃ t, execAll [.loadOf f w i d, .loadOf f w i2 d] s = .next t ∧ t.params = s.params ∧
      t.responses = s.responses ++ [⟨.ok, []⟩, ⟨.ok, []⟩] ∧
      Bank.unitAt (F.bank t) w i = ⟨true, F.ofData w.lanes d⟩ ∧
      Bank.unitAt (F.bank t) w i2 = ⟨true, F.ofData w.lanes d⟩ := by
  obtain ⟨hi, hi2⟩ := unitsExist_pair.mp hexist
  obtain ⟨u, hu, huparams, huunit, huresponses⟩ := L.loadUnit_completes hi hlength
  obtain ⟨t, ht, htparams, htunit2, htresponses⟩ :=
    L.loadUnit_completes (s := u) (huparams.symm ▸ hi2) hlength
  rw [← hload] at hu ht
  refine ⟨t, ?_, htparams.trans huparams, ?_, ?_, htunit2⟩
  · rw [execAll_cons_of_next hu, execAll_cons_of_next ht, execAll]
  · rw [htresponses, huresponses, List.append_assoc, List.singleton_append]
  · by_cases hii2 : i = i2
    · rw [hii2, htunit2]
    · rw [L.unitAt_exec_other ht (by simpa using hii2), huunit]

/-- Settles O56: the two LOADs give both units the same lanes, `execAll_nexts` steps them equally often, and
EQ finds the same lanes. -/
theorem equallySteppedUnitsCompareEqual : Obligations.EquallySteppedUnitsCompareEqual := by
  intro s f w i i2 d turns hexist hlength hturns
  obtain ⟨α, _, F, L, hload, hnext, -, heq⟩ := exists_lawful f
  obtain ⟨u, hu, hparams, huresponses, hunit, hunit2⟩ :=
    L.execAll_load_load hload hexist hlength
  rw [← hparams] at hexist
  obtain ⟨hi, hi2⟩ := unitsExist_pair.mp hexist
  obtain ⟨t, as, ht, htparams, htresponses, hstepped⟩ :=
    L.execAll_nexts (hnext w · []) (turnInsts i i2 turns)
      (fun j hj => by obtain rfl | rfl := eq_or_eq_of_mem_turnInsts hj <;> assumption)
      (fun j hj => by obtain rfl | rfl := eq_or_eq_of_mem_turnInsts hj <;> simp [hunit, hunit2])
  have htunit := hstepped i
  have htunit2 := hstepped i2
  rw [hunit, F.stepUnit_iterate] at htunit
  rw [hunit2, F.stepUnit_iterate, ← count_turnInsts_eq i i2 hturns] at htunit2
  have hanswer := eqUnits_of_unitAt (htparams.symm ▸ hexist) htunit htunit2
  rw [if_pos rfl] at hanswer
  rw [turnInsts, List.map_map] at ht
  refine ⟨t.answer .ok [1], [⟨.ok, []⟩, ⟨.ok, []⟩] ++ as, ?_, ?_⟩
  · rw [List.append_assoc]
    refine (execAll_append_of_next hu _).trans ((execAll_append_of_next ht _).trans ?_)
    rw [execAll_cons_of_next ((heq ..).trans hanswer), execAll]
  · rw [State.answer_responses, htresponses, huresponses, List.append_assoc s.responses]

/-! #### One lane of a wide unit beside a scalar unit -/

section

variable {α : Type} {F : FamilyOps α} {f : Family} (L : F.Lawful f)

include L

/-- A lane is known from its words. -/
theorem FamilyOps.Lawful.lane_ext {a b : α}
    (h : ∀ j < F.wordCount, (F.words a)[j]? = (F.words b)[j]?) : a = b := by
  refine L.words_injective (List.ext_getElem? fun j => ?_)
  rcases Nat.lt_or_ge j F.wordCount with hj | hj
  · exact h j hj
  · rw [List.getElem?_eq_none (by rwa [L.words_length]),
      List.getElem?_eq_none (by rwa [L.words_length])]

/-- Lane k's words among the data words of a wide LOAD are the data words of a scalar LOAD of that lane. -/
theorem FamilyOps.Lawful.ofData_lane {W k : Nat} {d : List Word}
    (hd : d.length = F.wordCount * W) (hk : k < W) :
    ∃ l, (F.ofData W d)[k]? = some l ∧
      F.ofData 1 ((List.range F.wordCount).map fun j => d.getD (j * W + k) 0) = [l] := by
  have hlane : ((List.range F.wordCount).map fun j => d.getD (j * W + k) 0).length =
      F.wordCount * 1 := by simp
  obtain ⟨m, hm⟩ := List.length_eq_one_iff.mp (L.ofData_length 1 _ hlane)
  have hk' : k < (F.ofData W d).length := by rwa [L.ofData_length W d hd]
  refine ⟨_, List.getElem?_eq_getElem hk', hm.trans (congrArg ([·]) (L.lane_ext fun j hj => ?_))⟩
  have hwide := L.ofData_word W d hd j hj k hk
  have hscalar := L.ofData_word 1 _ hlane j hj 0 Nat.one_pos
  rw [List.getElem?_eq_getElem hk', Option.map_some, Option.bind_some] at hwide
  rw [hm, List.getElem?_cons_zero, Option.map_some, Option.bind_some] at hscalar
  rw [hscalar, hwide]
  simp [hj, List.getElem?_eq_getElem (hd ▸ wordMajor_index_lt hj hk)]

end

/-- Lane k of the unit (w, i) in `s` holds what the scalar unit i' holds in `s'`; both are seeded. -/
def LanesAgree {α : Type} (F : FamilyOps α) (w : Width) (i i' : Inst) (k : Nat) (s s' : State) :
    Prop :=
  ∃ lanes l, Bank.unitAt (F.bank s) w i = ⟨true, lanes⟩ ∧
    Bank.unitAt (F.bank s') .w1 i' = ⟨true, [l]⟩ ∧ lanes[k]? = some l

/-- Two OK responses, the first with the second's data word as its data word k. -/
def LaneAnswersAgree (k : Nat) (a a' : Response) : Prop :=
  a.status = .ok ∧ a'.status = .ok ∧ a.data[k]? = a'.data[0]?

/-- The wide commands from `s` and the scalar ones from `s'` all complete, lane k ends as the scalar unit does,
and every response of the wide unit agrees with the scalar unit's. -/
def LaneRunsAgree {α : Type} (F : FamilyOps α) (f : Family) (w : Width) (i i' : Inst) (k : Nat)
    (script : List UnitCommand) (s s' : State) : Prop :=
  ∃ t t' as as', execAll (script.map (UnitCommand.wide f w i)) s = .next t ∧
    execAll (script.map (UnitCommand.scalar f w i' k)) s' = .next t' ∧
    LanesAgree F w i i' k t t' ∧ t.responses = s.responses ++ as ∧
    t'.responses = s'.responses ++ as' ∧ List.Forall₂ (LaneAnswersAgree k) as as'

section

variable {α : Type} {F : FamilyOps α} {f : Family} {w : Width} {i i' : Inst} {k : Nat}
  {s s' u u' : State}

/-- A run that agrees, after a first command whose answers agree. -/
theorem LaneRunsAgree.cons {c : UnitCommand} {script : List UnitCommand} {a a' : Response}
    (hu : exec (c.wide f w i) s = .next u) (hu' : exec (c.scalar f w i' k) s' = .next u')
    (ha : u.responses = s.responses ++ [a]) (ha' : u'.responses = s'.responses ++ [a'])
    (haa' : LaneAnswersAgree k a a') (h : LaneRunsAgree F f w i i' k script u u') :
    LaneRunsAgree F f w i i' k (c :: script) s s' := by
  obtain ⟨t, t', as, as', ht, ht', hlanes, has, has', hagree⟩ := h
  refine ⟨t, t', a :: as, a' :: as', ?_, ?_, hlanes, ?_, ?_, .cons haa' hagree⟩
  · rw [List.map_cons, execAll_cons_of_next hu, ht]
  · rw [List.map_cons, execAll_cons_of_next hu', ht']
  · rw [has, ha, List.append_assoc, List.singleton_append]
  · rw [has', ha', List.append_assoc, List.singleton_append]

variable (L : F.Lawful f) (hload : ∀ w i d s, exec (.loadOf f w i d) s = loadUnit F w i d s)
  (hnext : ∀ w i d s, exec (.nextOf f w i d) s = nextUnit F w i d s) (hk : k < w.lanes)

include L hload hk

/-- Whatever the units held, a LOAD of both makes them agree, and answers OK without data. -/
theorem lanesAgree_load {d : List Word} (hd : d.length = f.wordCount * w.lanes)
    (hexist : unitsExist s.params w [i] = true) (hexist' : unitsExist s'.params .w1 [i'] = true) :
    ∃ u u', exec ((UnitCommand.load d).wide f w i) s = .next u ∧
      exec ((UnitCommand.load d).scalar f w i' k) s' = .next u' ∧ u.params = s.params ∧
      u'.params = s'.params ∧ LanesAgree F w i i' k u u' ∧
      u.responses = s.responses ++ [⟨.ok, []⟩] ∧ u'.responses = s'.responses ++ [⟨.ok, []⟩] := by
  obtain ⟨l, hl, hl'⟩ := L.ofData_lane (by rwa [L.wordCount_eq]) hk
  obtain ⟨u, hu, hparams, hunit, hresponses⟩ := L.loadUnit_completes hexist hd
  obtain ⟨u', hu', hparams', hunit', hresponses'⟩ := L.loadUnit_completes (s := s') (w := .w1)
    (d := (List.range f.wordCount).map fun j => d.getD (j * w.lanes + k) 0) hexist'
    (by simp [Width.lanes])
  rw [← L.wordCount_eq] at hunit'
  exact ⟨u, u', (hload ..).trans hu, (hload ..).trans hu', hparams, hparams',
    ⟨_, l, hunit, hunit'.trans (congrArg _ hl'), hl⟩, hresponses, hresponses'⟩

include hnext

/-- Units that agree go on agreeing under any script, by induction on its commands. -/
theorem laneRunsAgree_of_lanesAgree (script : List UnitCommand)
    (hscript : ∀ c ∈ script, c.LengthOk f w) (hexist : unitsExist s.params w [i] = true)
    (hexist' : unitsExist s'.params .w1 [i'] = true) (h : LanesAgree F w i i' k s s') :
    LaneRunsAgree F f w i i' k script s s' := by
  induction script generalizing s s' with
  | nil => exact ⟨s, s', [], [], rfl, rfl, h, by simp, by simp, .nil⟩
  | cons c script ih =>
    obtain ⟨hc, hrest⟩ := List.forall_mem_cons.mp hscript
    cases c with
    | load d =>
      obtain ⟨u, u', hu, hu', hparams, hparams', hagree, ha, ha'⟩ :=
        lanesAgree_load L hload hk hc hexist hexist'
      exact .cons hu hu' ha ha' ⟨rfl, rfl, rfl⟩
        (ih hrest (hparams.symm ▸ hexist) (hparams'.symm ▸ hexist') hagree)
    | next =>
      obtain ⟨lanes, l, hunit, hunit', hl⟩ := h
      obtain ⟨u, hu, hparams, hustep, ha⟩ := L.nextUnit_completes hexist hunit
      obtain ⟨u', hu', hparams', hustep', ha'⟩ := L.nextUnit_completes hexist' hunit'
      refine .cons ((hnext ..).trans hu) ((hnext ..).trans hu') ha ha' ⟨rfl, rfl, ?_⟩
        (ih hrest (hparams.symm ▸ hexist) (hparams'.symm ▸ hexist')
          ⟨_, _, hustep, hustep', ?_⟩)
      · simp [hl]
      · simp [hl]

end

/-- Settles O55: the first LOAD makes the lane and the scalar unit agree, and the script keeps them so. -/
theorem laneEquivalence : Obligations.LaneEquivalence := by
  intro f w i i' k d script s s' hexist hexist' hk hlengths
  obtain ⟨α, -, F, L, hload, hnext, -⟩ := exists_lawful f
  obtain ⟨hd, hscript⟩ := List.forall_mem_cons.mp hlengths
  obtain ⟨u, u', hu, hu', hparams, hparams', hagree, ha, ha'⟩ :=
    lanesAgree_load L hload hk hd hexist hexist'
  have hrun := laneRunsAgree_of_lanesAgree L hload hnext hk script hscript
    (hparams.symm ▸ hexist) (hparams'.symm ▸ hexist') hagree
  obtain ⟨t, t', as, as', ht, ht', ⟨lanes, l, hunit, hunit', hl⟩, has, has', hanswers⟩ :=
    LaneRunsAgree.cons hu hu' ha ha' ⟨rfl, rfl, rfl⟩ hrun
  refine ⟨t, t', as, as', ht, ht', fun j => ?_, has, has', hanswers.length_eq,
    fun n a a' hn hn' => ?_⟩
  · rw [L.word?_eq, L.word?_eq, hunit, hunit', hl, List.getElem?_cons_zero]
  · exact (List.forall₂_iff_zip.mp hanswers).2
      (List.mem_of_getElem? (List.getElem?_zip_eq_some.mpr ⟨hn, hn'⟩))

end Sys2Proof.Machine
end

section
/-! ### SeedSpreader: the state law (40_seedspreader.md R82) -/

namespace Sys2Proof.Machine

open Sys2Proof.Config Sys2Proof.Statements

theorem ssOps_next_word (x : Word) : (ssOps.next x).1 = x + smInc := rfl

/-- n steps of a SeedSpreader lane add `SM_INC` n times. -/
theorem ssNext_iterate (n : Nat) (x : Word) :
    (fun l => (ssOps.next l).1)^[n] x = x + BitVec.ofNat 64 n * smInc := by
  simp only [ssOps_next_word]
  induction n generalizing x with
  | zero => simp
  | succ n ih => rw [Function.iterate_succ_apply, ih, ss_advance]

/-- The inverse of `SM_INC` mod 2^64, which an odd number has. -/
def smIncInverse : Word := 0xF1DE83E19937733D

theorem smIncInverse_mul_smInc : smIncInverse * smInc = 1 := by decide

/-- Multiplying by `SM_INC` loses nothing. -/
theorem mul_smInc_eq_zero_iff {x : Word} : x * smInc = 0 ↔ x = 0 := by
  refine ⟨fun h => ?_, fun h => by rw [h, zero_mul]⟩
  calc x = x * (smIncInverse * smInc) := by rw [smIncInverse_mul_smInc, mul_one]
    _ = smIncInverse * (x * smInc) := by ac_rfl
    _ = 0 := by rw [h, mul_zero]

/-- The period is 2^64. -/
theorem add_mul_smInc_eq_self_iff (x : Word) (n : Nat) :
    x + BitVec.ofNat 64 n * smInc = x ↔ 2 ^ 64 ∣ n := by
  rw [add_eq_left, mul_smInc_eq_zero_iff, Nat.dvd_iff_mod_eq_zero, ← BitVec.toNat_inj]
  rfl

/-- Every value is reached in less than 2^64 steps. -/
theorem exists_add_mul_smInc_eq (x v : Word) :
    ∃ n < 2 ^ 64, x + BitVec.ofNat 64 n * smInc = v := by
  refine ⟨((v - x) * smIncInverse).toNat, BitVec.isLt _, ?_⟩
  rw [BitVec.ofNat_toNat, BitVec.setWidth_eq, BitVec.mul_assoc, smIncInverse_mul_smInc,
    mul_one, add_sub_cancel]

/-- Settles O46: n NEXTs step the unit n times, and the number theory rests on the inverse of `SM_INC`. -/
theorem seedSpreaderStateLaw : Obligations.SeedSpreaderStateLaw := by
  refine ⟨fun n s w i hs hexist hseeded => ?_, add_mul_smInc_eq_self_iff, exists_add_mul_smInc_eq⟩
  rw [ssOps_lawful.isSeeded_eq] at hseeded
  have hlanes := Bank.lanes_length _ _ _ (ssOps_lawful.wellFormed_bank s hs) hseeded
  obtain ⟨t, as, ht, -, -, hstepped⟩ :=
    ssOps_lawful.execAll_nexts (fun _ _ => rfl) (.replicate n i) (s := s) (w := w)
      (fun j hj => List.eq_of_mem_replicate hj ▸ hexist)
      (fun j hj => List.eq_of_mem_replicate hj ▸ hseeded)
  rw [List.map_replicate] at ht
  have hunit := hstepped i
  rw [List.count_replicate_self, unitAt_of_seeded hseeded, FamilyOps.stepUnit_iterate] at hunit
  refine ⟨t, ht, fun k hk => ?_⟩
  have hk' : k < (Bank.unitAt (ssOps.bank s) w i).lanes.length := by rwa [hlanes]
  refine ⟨(Bank.unitAt (ssOps.bank s) w i).lanes[k], ?_, ?_⟩
  · rw [ssOps_lawful.word?_eq, List.getElem?_eq_getElem hk']
    rfl
  · rw [ssOps_lawful.word?_eq, hunit, List.getElem?_map, List.getElem?_eq_getElem hk',
      Option.map_some, ssNext_iterate]
    rfl

/-- Settles O44, by the definitions of the constants. -/
theorem constantsAreTheTables : Obligations.ConstantsAreTheTables :=
  ⟨rfl, rfl, rfl, rfl, rfl⟩

end Sys2Proof.Machine
end

section
/-! ### The zero lane of the xorshift families, and lanes that are not zero (R92, R93, R102, R103, R112, R113,
R123, R124) -/

namespace Sys2Proof.Machine

open Sys2Proof.Statements

section

variable {α : Type} {F : FamilyOps α} {f : Family} (L : F.Lawful f) {s t : State} {w : Width}
  {i : Inst} {k : Nat}

include L

/-- The words of a lane that is there. -/
theorem FamilyOps.Lawful.word?_of_lane {l : α}
    (h : (Bank.unitAt (F.bank s) w i).lanes[k]? = some l) (j : Nat) :
    s.word? f w i j k = (F.words l)[j]? := by
  rw [L.word?_eq, h, Option.map_some, Option.bind_some]

/-- Words that have values are those of a lane. -/
theorem FamilyOps.Lawful.lane_of_words {l : α} (hpos : 0 < F.wordCount)
    (h : ∀ j < F.wordCount, s.word? f w i j k = (F.words l)[j]?) :
    (Bank.unitAt (F.bank s) w i).lanes[k]? = some l := by
  cases hl : (Bank.unitAt (F.bank s) w i).lanes[k]? with
  | none =>
    have hword := h 0 hpos
    rw [L.word?_eq, hl, List.getElem?_eq_getElem (by rwa [L.words_length])] at hword
    cases hword
  | some m =>
    exact congrArg some (L.lane_ext fun j hj => (L.word?_of_lane hl j).symm.trans (h j hj))

/-- NEXT, whatever it answers, leaves a lane as it is or steps it. -/
theorem FamilyOps.Lawful.lane_next {l : α}
    (hexec : ∀ s, exec (.nextOf f w i []) s = nextUnit F w i [] s)
    (ht : exec (.nextOf f w i []) s = .next t)
    (hl : (Bank.unitAt (F.bank s) w i).lanes[k]? = some l) :
    (Bank.unitAt (F.bank t) w i).lanes[k]? = some l ∨
      (Bank.unitAt (F.bank t) w i).lanes[k]? = some (F.next l).1 := by
  rw [hexec] at ht
  obtain ⟨e, -, h⟩ | ⟨hexist, -, hseeded, -⟩ := FamilyOps.Lawful.nextUnit_eq F w i [] s
  · obtain rfl := Host.Outcome.next.inj (h.symm.trans ht)
    exact .inl (by rwa [L.bank_answer])
  · obtain ⟨t', ht', -, hunit, -⟩ := L.nextUnit_completes hexist (unitAt_of_seeded hseeded)
    obtain rfl := Host.Outcome.next.inj (ht'.symm.trans ht)
    exact .inr (by simp [hunit, hl])

/-- Where the state map is one-to-one and keeps the zero lane, a lane that is not zero never becomes zero. -/
theorem FamilyOps.IsZeroLane.nonZero_next {l z : α} (hz : F.IsZeroLane z)
    (hinj : Function.Injective fun l => (F.next l).1) (hpos : 0 < F.wordCount)
    (hexec : ∀ s, exec (.nextOf f w i []) s = nextUnit F w i [] s)
    (ht : exec (.nextOf f w i []) s = .next t)
    (hwords : ∀ j < F.wordCount, s.word? f w i j k = (F.words l)[j]?) (hl : l ≠ z) :
    ∃ m, (∀ j, t.word? f w i j k = (F.words m)[j]?) ∧ m ≠ z := by
  obtain hkept | hstepped := L.lane_next hexec ht (L.lane_of_words hpos hwords)
  · exact ⟨l, L.word?_of_lane hkept, hl⟩
  · refine ⟨(F.next l).1, L.word?_of_lane hstepped, fun hm => hl (hinj ?_)⟩
    exact hm.trans (congrArg Prod.fst hz.next_eq).symm

end

/-- Settles O47: a lane of zero words is the zero lane, which NEXT leaves with output 0. -/
theorem zeroXorshiftLanesStayZero : Obligations.ZeroXorshiftLanesStayZero := by
  intro s f w i hf hs hexist hseeded
  obtain ⟨α, F, z, L, hz, -, hnext⟩ := exists_lawful_zeroLane hf
  have hpos : 0 < F.wordCount := by
    rw [L.wordCount_eq]
    cases f <;> decide
  have hzword : ∀ j < f.wordCount, (F.words z)[j]? = some 0 := fun j hj => by
    simp [hz.words_eq, L.wordCount_eq, hj]
  rw [L.isSeeded_eq] at hseeded
  obtain ⟨t, ht, -, hunit, hresponses⟩ :=
    L.nextUnit_completes hexist (unitAt_of_seeded hseeded)
  refine ⟨t, _, (hnext ..).trans ht, hresponses, fun k _ hzero => ?_⟩
  have hlane : (Bank.unitAt (F.bank s) w i).lanes[k]? = some z :=
    L.lane_of_words hpos fun j hj => by
      rw [L.wordCount_eq] at hj
      rw [hzero j hj, hzword j hj]
  refine ⟨fun j hj => ?_, by simp [hlane, hz.next_eq]⟩
  rw [L.word?_of_lane (l := z) (by simp [hunit, hlane, hz.next_eq]), hzword j hj]

/-! #### XS64 (41_xorshift64.md R93) -/

theorem xorShiftLeft_bijective {a : Nat} (ha : 0 < a) :
    Function.Bijective fun x : Word => x ^^^ (x <<< a) :=
  (xorShiftLeft_injective ha).bijective_of_finite

theorem xorShiftRight_bijective {a : Nat} (ha : 0 < a) :
    Function.Bijective fun x : Word => x ^^^ (x >>> a) :=
  (xorShiftRight_injective ha).bijective_of_finite

/-- The state map of XS64 is the three xor-shifts one after the other. -/
theorem xs64Next_injective : Function.Injective fun x : Word => (xs64Next x).1 :=
  (xorShiftLeft_injective (a := Config.xs64C) (by decide)).comp
    ((xorShiftRight_injective (a := Config.xs64B) (by decide)).comp
      (xorShiftLeft_injective (a := Config.xs64A) (by decide)))

theorem xs64_isZeroLane : xs64Ops.IsZeroLane 0 := ⟨rfl, by decide⟩

/-- Settles O49: xor-shifts lose nothing, so their composition keeps zero only at zero. -/
theorem nonZeroXs64LanesStayNonZero : Obligations.NonZeroXs64LanesStayNonZero := by
  refine ⟨⟨xorShiftLeft_bijective (by decide), xorShiftRight_bijective (by decide),
    xorShiftLeft_bijective (by decide)⟩, fun s t w i k x ht hx hne => ?_⟩
  obtain ⟨y, hy, hyne⟩ := xs64_isZeroLane.nonZero_next xs64Ops_lawful xs64Next_injective
    Nat.one_pos (fun _ => rfl) ht (l := x) (k := k)
    (fun j hj => by obtain rfl := Nat.lt_one_iff.mp hj; exact hx) hne
  exact ⟨y, hy 0, hyne⟩

/-! #### Lanes of two words (R103, R113) -/

/-- The two words of a lane, as the statements name them. -/
theorem words_of_two {f : Family} {s : State} {w : Width} {i : Inst} {k : Nat} {l : Lane2}
    (h0 : s.word? f w i 0 k = some l.w0) (h1 : s.word? f w i 1 k = some l.w1) :
    ∀ j < 2, s.word? f w i j k = l.words[j]? := by
  intro j hj
  obtain rfl | rfl : j = 0 ∨ j = 1 := by omega
  · exact h0
  · exact h1

theorem lane2_ne_zero_iff (l : Lane2) : l ≠ ⟨0, 0⟩ ↔ (l.w0, l.w1) ≠ (0, 0) := by
  cases l
  simp

theorem xor_pairs (x y u v : Word) : x ^^^ y ^^^ u ^^^ v = x ^^^ u ^^^ (y ^^^ v) := by ac_rfl

/-- R103: word0 of the new lane is the old word1; the old word0 comes back through the two xor-shifts. -/
theorem xs128pNext_injective : Function.Injective fun l : Lane2 => (xs128pNext l).1 := by
  rintro ⟨a0, a1⟩ ⟨b0, b1⟩ h
  obtain ⟨rfl, hn1⟩ : a1 = b1 ∧ _ := by simpa only [xs128pNext, Lane2.mk.injEq] using h
  obtain rfl : a0 = b0 := by
    refine xorShiftLeft_injective (a := Config.xs128pA) (by decide)
      (xorShiftRight_injective (a := Config.xs128pB) (by decide) ?_)
    rw [xor_pairs (a0 ^^^ _), xor_pairs (b0 ^^^ _)] at hn1
    exact (BitVec.xor_left_inj _).mp hn1
  rfl

theorem xs128p_isZeroLane : xs128pOps.IsZeroLane ⟨0, 0⟩ := ⟨rfl, by decide⟩

/-- Settles O50; the lane with output 0 is evaluated. -/
theorem nonZeroXs128pLanesStayNonZero : Obligations.NonZeroXs128pLanesStayNonZero := by
  refine ⟨xorShiftRight_bijective (by decide), xorShiftLeft_bijective (by decide),
    xs128pNext_injective, fun s t w i k x0 x1 ht h0 h1 hne => ?_, by decide⟩
  obtain ⟨m, hm, hmne⟩ := xs128p_isZeroLane.nonZero_next xs128pOps_lawful xs128pNext_injective
    Nat.two_pos (fun _ => rfl) ht (words_of_two (l := ⟨x0, x1⟩) h0 h1)
    ((lane2_ne_zero_iff _).mpr hne)
  exact ⟨m.w0, m.w1, hm 0, hm 1, (lane2_ne_zero_iff m).mp hmne⟩

/-- Rotating right undoes a rotate left. -/
theorem rotr_rotl (x : Word) {k : Nat} (hk : k ≤ 64) : rotr (rotl x k) k = x :=
  rotl_rotl_inverse x hk

theorem xor_xor_cancel (x y : Word) : x ^^^ y ^^^ y = x := by
  rw [BitVec.xor_assoc, BitVec.xor_self, BitVec.xor_zero]

theorem xor_xor_xor_cancel (x y z : Word) : x ^^^ y ^^^ z ^^^ y ^^^ z = x := by
  rw [xor_pairs (x ^^^ y), xor_xor_cancel, BitVec.xor_self, BitVec.xor_zero]

/-- The inverse of the XRS128P state map, as R113 writes it. -/
def xrs128pBack (n : Lane2) : Lane2 :=
  let s1 := rotr n.w1 Config.xrsC
  let s0 := rotr (n.w0 ^^^ s1 ^^^ (s1 <<< Config.xrsB)) Config.xrsA
  ⟨s0, s1 ^^^ s0⟩

theorem xrs128pBack_next (l : Lane2) : xrs128pBack (xrs128pNext l).1 = l := by
  simp only [xrs128pBack, xrs128pNext, rotr_rotl _ (k := Config.xrsC) (by decide),
    xor_xor_xor_cancel, rotr_rotl _ (k := Config.xrsA) (by decide), xor_xor_cancel]

theorem xrs128p_isZeroLane : xrs128pOps.IsZeroLane ⟨0, 0⟩ := ⟨rfl, by decide⟩

/-- Settles O51: a map with an inverse is one-to-one. -/
theorem nonZeroXrs128pLanesStayNonZero : Obligations.NonZeroXrs128pLanesStayNonZero := by
  refine ⟨xrs128pBack_next, fun s t w i k x0 x1 ht h0 h1 hne => ?_⟩
  obtain ⟨m, hm, hmne⟩ := xrs128p_isZeroLane.nonZero_next xrs128pOps_lawful
    (Function.LeftInverse.injective xrs128pBack_next) Nat.two_pos (fun _ => rfl) ht
    (words_of_two (l := ⟨x0, x1⟩) h0 h1) ((lane2_ne_zero_iff _).mpr hne)
  exact ⟨m.w0, m.w1, hm 0, hm 1, (lane2_ne_zero_iff m).mp hmne⟩

/-! #### XSH256PP (44_xoshiro256plusplus.md R124) -/

/-- A left xor-shift of `y`, from what XSH256PP keeps of it in word2 and word1. -/
theorem xorShiftLeft_eq_xor_xor (x y : Word) (a : Nat) :
    y ^^^ (y <<< a) = y ^^^ (x <<< a) ^^^ ((x ^^^ y) <<< a) := by
  rw [BitVec.shiftLeft_xor_distrib, BitVec.xor_assoc, ← BitVec.xor_assoc (x <<< a),
    BitVec.xor_self, BitVec.zero_xor]

/-- The recovery of R124, with `w2 ^ w0` for the intermediate word. -/
theorem xsh256ppNext_recover (l : Lane4) :
    let n := (xsh256ppNext l).1
    l.w0 = n.w0 ^^^ rotr n.w3 Config.xshQ ∧
      ∃ w2a : Word, w2a ^^^ (w2a <<< Config.xshT) = n.w2 ^^^ (n.w1 <<< Config.xshT) ∧
        l.w1 = n.w1 ^^^ w2a ∧ l.w2 = w2a ^^^ l.w0 ∧ l.w3 = rotr n.w3 Config.xshQ ^^^ l.w1 := by
  simp only [xsh256ppNext, rotr_rotl _ (k := Config.xshQ) (by decide), xor_xor_cancel, true_and]
  exact ⟨l.w2 ^^^ l.w0, xorShiftLeft_eq_xor_xor _ _ _, (xor_xor_cancel _ _).symm,
    (xor_xor_cancel _ _).symm, trivial⟩

theorem xsh256ppNext_injective : Function.Injective fun l : Lane4 => (xsh256ppNext l).1 := by
  intro a b h
  obtain ⟨ha0, wa, hwa, ha1, ha2, ha3⟩ := xsh256ppNext_recover a
  obtain ⟨hb0, wb, hwb, hb1, hb2, hb3⟩ := xsh256ppNext_recover b
  simp only at h
  rw [h] at ha0 hwa ha1 ha3
  have hw : wa = wb :=
    xorShiftLeft_injective (a := Config.xshT) (by decide) (hwa.trans hwb.symm)
  have h0 : a.w0 = b.w0 := ha0.trans hb0.symm
  have h1 : a.w1 = b.w1 := by rw [ha1, hb1, hw]
  have h2 : a.w2 = b.w2 := by rw [ha2, hb2, hw, h0]
  have h3 : a.w3 = b.w3 := by rw [ha3, hb3, h1]
  cases a
  cases b
  exact (Lane4.mk.injEq ..).mpr ⟨h0, h1, h2, h3⟩

theorem xsh256pp_isZeroLane : xsh256ppOps.IsZeroLane ⟨0, 0, 0, 0⟩ := ⟨rfl, by decide⟩

/-- Settles O52: the recovery makes the state map one-to-one. -/
theorem nonZeroXsh256ppLanesStayNonZero : Obligations.NonZeroXsh256ppLanesStayNonZero := by
  refine ⟨xorShiftLeft_bijective (by decide), xsh256ppNext_recover,
    fun s t w i k l ht hwords hne => ?_⟩
  obtain ⟨m, hm, hmne⟩ := xsh256pp_isZeroLane.nonZero_next xsh256ppOps_lawful
    xsh256ppNext_injective (by decide) (fun _ => rfl) ht hwords hne
  exact ⟨m, fun j _ => hm j, hmne⟩

end Sys2Proof.Machine
end
